-- ==== Sys2Proof/Word.lean ====
section
/-! DEFINITION. The word types: what the spec treats as bits, at the widths it gives (R6, R30, R45, R46). -/

namespace Sys2Proof

/-- The only addressable unit of every memory space (R30). -/
abbrev Byte := BitVec 8

/-- A 16-bit operand or register: `imm`, TICKER, SLEN (R14, R16, R46). -/
abbrev Half := BitVec 16

/-- A command word, given to the block whole (R45). -/
abbrev Word := BitVec 32

end Sys2Proof
end

