-- ==== Sys2Proof/Config.lean ====
section
/-! DEFINITION. The implementation parameters (00_scope.md R5) as arguments of the machine: no rule of the model holds one
of their values as a literal. With them the values of this hardware, and the values the spec leaves free: opaque constants
without a body, so that nothing can be proved of what they are. -/

namespace Sys2Proof

/-- The three buffers a command can write (20_memory.md R30). -/
inductive Buf where
  | str
  | win
  | frame
  deriving DecidableEq, Repr

/-- `PACK_EMIT_ORDER`: the order in which the quantizer emits pixel pairs (R5, R66). -/
inductive EmitOrder where
  | reverse
  | forward
  deriving DecidableEq, Repr

/-- The parameters of R5 that are sizes. The proof fields are the relations between them that the spec states or computes
with, so that sizes of no such block cannot be built (log entry 20): the sums under the table of R5, and that the 16-bit
registers and the command word's fields hold every value the sizes allow. -/
structure Sizes where
  /-- CODE_W: the width of a character code in bits. -/
  codeW : Nat
  /-- STR_MAX: the capacity of the string buffer in characters. -/
  strMax : Nat
  /-- CELL_PX: the width and height of a glyph cell in pixels. -/
  cellPx : Nat
  /-- CELL_B: bytes per glyph-cell row. -/
  cellB : Nat
  /-- WIN_B: bytes in a window. -/
  winB : Nat
  /-- FRAME_B: bytes in a packed frame. -/
  frameB : Nat
  /-- Every value of the 8-bit field `a` is a character code (R46, R47). -/
  code_field : 8 ≤ codeW
  /-- The 16-bit SLEN holds every length (R16). -/
  str_fits : strMax < 2 ^ 16
  /-- The 16-bit TICKER holds every position of the cursor (R14). -/
  cursor_fits : cellPx * (strMax - 1) < 2 ^ 16
  cell_pos : 0 < cellPx
  /-- A row of pixels is a whole number of pixel pairs (R36, R68). -/
  cell_even : cellPx % 2 = 0
  /-- 24 = 8 pixels × 3 bytes (R5). -/
  cellB_eq : cellB = cellPx * 3
  /-- 192 = 8 rows × 24 (R5). -/
  winB_eq : winB = cellPx * cellB
  /-- 96 = 8 rows × 12, half the bytes of a cell row (R5). -/
  frameB_eq : frameB = cellPx * (cellB / 2)
  deriving DecidableEq, Repr

/-- The size in bytes of a buffer (R30). -/
def Sizes.bufSize (z : Sizes) : Buf → Nat
  | .str => z.strMax
  | .win => z.winB
  | .frame => z.frameB

/-- All the parameters of R5: the sizes, the emit order and the font configuration ATLAS, ATLAS_W, FCC. They are fixed for
a run, written by no command and unchanged by reset. The last proof fields are the invariants of R12 and R13: a
configuration that breaks one is none of this hardware (U14) and cannot be built (`Machine.configure` refuses it by
name). -/
structure Params extends Sizes where
  /-- PACK_EMIT_ORDER. -/
  emitOrder : EmitOrder
  /-- FCC: the character code of the cell at atlas origin (R13). -/
  fcc : Nat
  /-- ATLAS_W: bytes per atlas row. -/
  width : Nat
  /-- ATLAS: `rows[r][b]` is byte `b` of pixel row `r`, row 0 on top (R12, R31). -/
  rows : List (List Byte)
  fcc_code : fcc < 2 ^ codeW
  width_mod : width % 3 = 0
  width_min : cellB ≤ width
  rows_count : rows.length = cellPx
  rows_width : ∀ row ∈ rows, row.length = width
  deriving DecidableEq, Repr

namespace Config

/-- The sizes of this hardware: the column "value for this hardware" of R5. -/
def sizes : Sizes where
  codeW := 8
  strMax := 256
  cellPx := 8
  cellB := 24
  winB := 192
  frameB := 96
  code_field := by decide
  str_fits := by decide
  cursor_fits := by decide
  cell_pos := by decide
  cell_even := by decide
  cellB_eq := by decide
  winB_eq := by decide
  frameB_eq := by decide

/-- FREE VALUE. What byte `i` of a buffer holds from the `epoch`-th reset until it is first written: unspecified and
stable (U3, D24). Safe: nothing can be proved of it. Log entry 4. -/
opaque unspecifiedByte (epoch : Nat) (b : Buf) (i : Nat) : Byte

/-- OPEN parameter FCC of the machine at `State.reset`, at the width CODE_W of this hardware (D3). Log entry 3. -/
opaque fcc : BitVec sizes.codeW

/-- OPEN parameter: how many pixels the atlas has beyond its first glyph cell, so that `CELL_B + 3 * extraPixels` runs
through every legal ATLAS_W (D3, D4). Log entry 3. -/
opaque extraPixels : Nat

/-- OPEN parameter: the contents of the atlas at `State.reset` (D3). Log entry 3. -/
opaque atlasByte (r b : Nat) : Byte

/-- The parameters of the machine at `State.reset`: the decided values of R5, and every OPEN one an open constant. -/
def params : Params where
  toSizes := sizes
  emitOrder := .reverse
  fcc := fcc.toNat
  width := sizes.cellB + 3 * extraPixels
  rows := (List.range sizes.cellPx).map fun r => (List.range (sizes.cellB + 3 * extraPixels)).map (atlasByte r)
  fcc_code := fcc.isLt
  width_mod := by rw [sizes.cellB_eq]; omega
  width_min := by omega
  rows_count := by simp
  rows_width := by simp

end Config

end Sys2Proof
end

