-- ==== Sys2Proof/Syntax.lean ====
section
/-! DEFINITION. The commands as syntax: one constructor per row of spec/opcode_table.json, the fields of a command word,
the operand formats, and the pseudo-instructions (30_encoding.md R46 to R52). -/

namespace Sys2Proof

/-- The eight commands of the set GBI-1 (R48, R54), operands at the width of their fields (R46, R47). -/
inductive Instr where
  /-- PACK (R65). -/
  | pack
  /-- WCHR code (R75). -/
  | wchr (code : Byte)
  /-- WSTR k (R77). -/
  | wstr (k : Half)
  /-- WCUR (R79). -/
  | wcur
  /-- TICK (R90). -/
  | tick
  /-- RTIK (R92). -/
  | rtik
  /-- SLEN n (R100). -/
  | slen (n : Half)
  /-- SCHR idx, code (R101). -/
  | schr (idx : Half) (code : Byte)
  deriving DecidableEq, Repr

/-- The three fields every command word has (R46). -/
structure Fields where
  /-- bits 31:24, the opcode -/
  op : Byte
  /-- bits 23:16 -/
  a : Byte
  /-- bits 15:0 -/
  imm : Half
  deriving DecidableEq, Repr

/-- Which operand fields a command uses (the format table of R46). -/
inductive Format where
  | N
  | A
  | I
  | AI
  deriving DecidableEq, Repr

/-- Why a word is no command (R49). -/
inductive Illegal where
  /-- `op` is 0x00 or in 0x09 .. 0xFF -/
  | unassignedOpcode
  /-- an assigned opcode with a non-zero field that its format does not use -/
  | nonZeroField
  deriving DecidableEq, Repr

/-- The verdict of decode on a word (R49): one of the eight commands with its operands, or illegal. -/
inductive Verdict where
  | command (i : Instr)
  | illegal (why : Illegal)
  deriving DecidableEq, Repr

/-- The pseudo-instructions of R52; none has an encoding of its own. -/
inductive Pseudo where
  | fchr (code : Byte)
  | ftik
  | ldstr (codes : List Byte)
  deriving DecidableEq, Repr

end Sys2Proof
end

