-- ==== Sys2Proof/WellFormed.lean ====
section
/-! DEFINITION. When the fields of a word form a command: the opcode is assigned and every field its format does not use
is zero (30_encoding.md R46, R48, R49). -/

namespace Sys2Proof

/-- The format of an opcode, `none` for an unassigned one (R46, R48). -/
def opFormat (op : Byte) : Option Format :=
  if op = 0x01#8 then some .N
  else if op = 0x02#8 then some .A
  else if op = 0x03#8 then some .I
  else if op = 0x04#8 then some .N
  else if op = 0x05#8 then some .N
  else if op = 0x06#8 then some .N
  else if op = 0x07#8 then some .I
  else if op = 0x08#8 then some .AI
  else none

/-- Whether the format uses field `a`. -/
def Format.usesA : Format → Bool
  | .N => false
  | .A => true
  | .I => false
  | .AI => true

/-- Whether the format uses field `imm`. -/
def Format.usesImm : Format → Bool
  | .N => false
  | .A => false
  | .I => true
  | .AI => true

/-- The fields form a command (R49). -/
def Fields.wellFormed (f : Fields) : Bool :=
  match opFormat f.op with
  | none => false
  | some k => (k.usesA || f.a == 0#8) && (k.usesImm || f.imm == 0#16)

end Sys2Proof
end

