-- ==== Sys2Proof/Decode.lean ====
section
/-! DEFINITION. Decode, total on every word (30_encoding.md R53), the encoder, the assembler spelling (R51) and the
expansions of the pseudo-instructions (R52). -/

namespace Sys2Proof

/-- The fields of a word: `op` = 31:24, `a` = 23:16, `imm` = 15:0 (R46). -/
def fieldsOf (w : Word) : Fields where
  op := w.extractLsb' 24 8
  a := w.extractLsb' 16 8
  imm := w.extractLsb' 0 16

/-- The word with the given fields (R46). -/
def wordOf (f : Fields) : Word := f.op ++ f.a ++ f.imm

/-- R53 on the fields of a word. -/
def decodeFields (f : Fields) : Verdict :=
  if f.op = 0x01#8 then
    if f.a = 0#8 ∧ f.imm = 0#16 then .command .pack else .illegal .nonZeroField
  else if f.op = 0x02#8 then
    if f.imm = 0#16 then .command (.wchr f.a) else .illegal .nonZeroField
  else if f.op = 0x03#8 then
    if f.a = 0#8 then .command (.wstr f.imm) else .illegal .nonZeroField
  else if f.op = 0x04#8 then
    if f.a = 0#8 ∧ f.imm = 0#16 then .command .wcur else .illegal .nonZeroField
  else if f.op = 0x05#8 then
    if f.a = 0#8 ∧ f.imm = 0#16 then .command .tick else .illegal .nonZeroField
  else if f.op = 0x06#8 then
    if f.a = 0#8 ∧ f.imm = 0#16 then .command .rtik else .illegal .nonZeroField
  else if f.op = 0x07#8 then
    if f.a = 0#8 then .command (.slen f.imm) else .illegal .nonZeroField
  else if f.op = 0x08#8 then .command (.schr f.imm f.a)
  else .illegal .unassignedOpcode

/-- `decode(w)` (R53). -/
def decode (w : Word) : Verdict := decodeFields (fieldsOf w)

/-- The fields of a command, unused ones zero (R46, R48). -/
def encodeFields : Instr → Fields
  | .pack => ⟨0x01#8, 0#8, 0#16⟩
  | .wchr code => ⟨0x02#8, code, 0#16⟩
  | .wstr k => ⟨0x03#8, 0#8, k⟩
  | .wcur => ⟨0x04#8, 0#8, 0#16⟩
  | .tick => ⟨0x05#8, 0#8, 0#16⟩
  | .rtik => ⟨0x06#8, 0#8, 0#16⟩
  | .slen n => ⟨0x07#8, 0#8, n⟩
  | .schr idx code => ⟨0x08#8, code, idx⟩

/-- `encode(c)` (R53). -/
def encode (i : Instr) : Word := wordOf (encodeFields i)

/-- One row of the opcode map: a word is the command of the row exactly when `w & mask = match` (R48). -/
def rowMatch : Instr → Word
  | .pack => 0x01000000#32
  | .wchr _ => 0x02000000#32
  | .wstr _ => 0x03000000#32
  | .wcur => 0x04000000#32
  | .tick => 0x05000000#32
  | .rtik => 0x06000000#32
  | .slen _ => 0x07000000#32
  | .schr _ _ => 0x08000000#32

/-- The mask of a command's row (R48). -/
def rowMask : Instr → Word
  | .pack => 0xFFFFFFFF#32
  | .wchr _ => 0xFF00FFFF#32
  | .wstr _ => 0xFFFF0000#32
  | .wcur => 0xFFFFFFFF#32
  | .tick => 0xFFFFFFFF#32
  | .rtik => 0xFFFFFFFF#32
  | .slen _ => 0xFFFF0000#32
  | .schr _ _ => 0xFF000000#32

/-- The command word whose low `nbits` bits are `w`, every bit above them zero: bit 0 of the table's numbering is bit 0
of the word, which the host gives to the block whole (R45). -/
def tableWord (nbits w : Nat) : Word := BitVec.ofNat 32 (w % 2 ^ nbits)

/-- What the decoder reads from an instruction given in the numbering of spec/opcode_table.json. -/
def decodeTableWord (nbits w : Nat) : Option Instr :=
  match decode (tableWord nbits w) with
  | .command i => some i
  | .illegal _ => none

/-- The fixed expansion of a pseudo-instruction (R52); `none` for an LDSTR whose length or indices no 16-bit operand can
hold (R47). -/
def expand : Pseudo → Option (List Instr)
  | .fchr code => some [.wchr code, .pack]
  | .ftik => some [.wcur, .pack, .tick]
  | .ldstr codes =>
    if codes.length < 2 ^ 16 then
      some (codes.zipIdx.map (fun p => .schr (BitVec.ofNat 16 p.2) p.1) ++
        [.slen (BitVec.ofNat 16 codes.length), .rtik])
    else none

/-- A command in the assembler spelling of R51, operands in decimal. -/
def assembly : Instr → String
  | .pack => "PACK"
  | .wchr code => "WCHR " ++ toString code.toNat
  | .wstr k => "WSTR " ++ toString k.toNat
  | .wcur => "WCUR"
  | .tick => "TICK"
  | .rtik => "RTIK"
  | .slen n => "SLEN " ++ toString n.toNat
  | .schr idx code => "SCHR " ++ toString idx.toNat ++ ", " ++ toString code.toNat

/-! One word per constructor, written out from R48 and from section 7 of 95_test_vectors.md. -/

theorem decode_word_pack : decode 0x01000000#32 = .command .pack := by decide
theorem decode_word_wchr : decode 0x02390000#32 = .command (.wchr 57#8) := by decide
theorem decode_word_wstr : decode 0x030007F8#32 = .command (.wstr 2040#16) := by decide
theorem decode_word_wcur : decode 0x04000000#32 = .command .wcur := by decide
theorem decode_word_tick : decode 0x05000000#32 = .command .tick := by decide
theorem decode_word_rtik : decode 0x06000000#32 = .command .rtik := by decide
theorem decode_word_slen : decode 0x07000003#32 = .command (.slen 3#16) := by decide
theorem decode_word_schr : decode 0x08300002#32 = .command (.schr 2#16 48#8) := by decide

end Sys2Proof
end

