-- ==== Sys2Proof/Machine/State.lean ====
section
/-! DEFINITION. The state of the block as plain data (10_state.md), the host's transactions (20_memory.md R39), the
causes of R106, the reasons a step can stop, and the state after reset (R25). -/

namespace Sys2Proof.Machine

/-- The contents of a buffer: the bytes written since reset, as (index, byte) pairs in strictly rising index order. An
index that is not listed has not been written since reset: it has no value here, and reading it gives the free value
`Config.unspecifiedByte` (U3; log entries 4 and 5). -/
abbrev Memory := List Host.Cell

/-- The indices rise strictly from `lo` on. -/
def Memory.rising : Nat → Memory → Bool
  | _, [] => true
  | lo, c :: m => decide (lo ≤ c.1) && Memory.rising (c.1 + 1) m

/-- The one canonical form: strictly rising indices, all inside a space of `size` bytes. No entry can equal what an
unlisted index holds, since an unlisted index holds no value (log entry 5). -/
def Memory.wf (size : Nat) (m : Memory) : Bool :=
  Memory.rising 0 m && m.all fun c => decide (c.1 < size)

/-- The causes of R106, in the order of their codes. `decodeError` and `transportError` are reserved and never raised by
the block. -/
inductive Cause where
  | decodeError
  | invalidInput
  | transportError
  | illegalCommand
  deriving DecidableEq, Repr

/-- A host transaction (R39). The address of ATLAS is the pair (row, byte); the buffers are addressed by index. -/
inductive HostTxn where
  | cmd (w : Word)
  | regRead (n : Nat)
  | atlasRead (r b : Nat)
  | bufRead (b : Buf) (i : Nat)
  | reset
  deriving DecidableEq, Repr

/-- What a read transaction returned: a register, zero-extended to 32 bits (log entry 8), or one byte. -/
inductive Reply where
  | reg (v : Word)
  | byte (v : Byte)
  deriving DecidableEq, Repr

/-- Why the model stops with a fault of its own. The block's own faults (R107, R108) are not here: their entry is a next
state (R109). -/
inductive Fault where
  /-- Raised by PACK, WSTR and WCUR when a buffer read would leave its space; only a SLEN above STR_MAX leads here, which
  no run from reset reaches (R23). Safe: the model stops where the spec says no such access exists (R33). Log entry 10. -/
  | outsideSpace (b : Buf) (i n : Nat)
  deriving DecidableEq, Repr

/-- What the model gives no meaning. -/
inductive Refusal where
  /-- Raised by an arm of `exec` whose instruction has no meaning yet; no arm is left so. Safe. -/
  | notModelled (mnemonic : String)
  /-- Raised by `RegRead(n)` with `n ≥ 5`: reserved, the spec says refuse (U5). Safe. -/
  | reservedRegister (n : Nat)
  /-- Raised by `BufRead` of ATLAS outside its rows or row width: the spec says refuse (U6). Safe. -/
  | outsideAtlas (r b : Nat)
  /-- Raised by `BufRead` of STR, WIN or FRAME outside the buffer: the spec says refuse (U6). Safe. -/
  | outsideBuffer (b : Buf) (i : Nat)
  /-- Raised by `configure` for a font that breaks the atlas invariants: the spec says refuse (R12, U14). Safe. -/
  | fontConfiguration
  deriving DecidableEq, Repr

/-- The state of the block. -/
structure State where
  /-- TICKER, the scroll cursor's position (R14). -/
  ticker : Half
  /-- DIR, the encoding of DELTA: 0 for +1, 1 for -1 (R15). -/
  dir : BitVec 1
  /-- SLEN, the length of the current string (R16). -/
  slen : Half
  /-- STATUS: FAULT in bit 0, CAUSE in bits 7:4, bits 3:1 hardwired 0 (R17). -/
  status : BitVec 8
  /-- FCMD, the command word of the recorded fault (R18). -/
  fcmd : Word
  /-- STR, the string buffer (R19). -/
  str : Memory
  /-- WIN, the window buffer (R20). -/
  win : Memory
  /-- FRAME, the packed-frame buffer (R21). -/
  frame : Memory
  /-- OUT, the frame-output trace, oldest first (R21). -/
  out : List (List Byte)
  /-- ci, the index of the next command in the host's command stream (R11). -/
  ci : Nat
  /-- The parameters of R5: no step changes them (log entries 3, 12 and 20). -/
  params : Params
  /-- The model's own: resets applied so far; it names the free bytes of the current one (log entry 6). -/
  epoch : Nat
  /-- The model's own: the host's transactions still to be performed, oldest first (R39; log entry 1). -/
  pending : List HostTxn
  /-- The model's own: what the host's reads returned, oldest first (R39; log entry 8). -/
  replies : List Reply
  deriving DecidableEq, Repr

/-- The block right after reset (R25), with the open parameters of the configuration and no transaction pending. -/
def State.reset : State where
  ticker := 0#16
  dir := 0#1
  slen := 0#16
  status := 0x00#8
  fcmd := 0x00000000#32
  str := []
  win := []
  frame := []
  out := []
  ci := 0
  params := Config.params
  epoch := 0
  pending := []
  replies := []

end Sys2Proof.Machine
end

