-- ==== Sys2Proof/Machine/Operands.lean ====
section
/-! DEFINITION. Operand assembly: every operand field is unsigned and zero-extended to the integers (30_encoding.md R47). -/

namespace Sys2Proof.Machine

/-- A character code: `code = zext(a)` (R47). -/
def codeOperand (a : Byte) : Int := a.toNat

/-- A pixel column: `k = zext(imm)` (R47). -/
def columnOperand (imm : Half) : Int := imm.toNat

/-- A string length: `n = zext(imm)` (R47). -/
def lengthOperand (imm : Half) : Nat := imm.toNat

/-- A string index: `idx = zext(imm)` (R47). -/
def indexOperand (imm : Half) : Nat := imm.toNat

end Sys2Proof.Machine
end

