-- ==== Sys2Proof/Machine/Flags.lean ====
section
/-! DEFINITION. The direction flag DELTA and the fields of STATUS: how each is read and written (10_state.md R15, R17;
60_exceptions.md R106). -/

namespace Sys2Proof.Machine

/-- DELTA, read as the integer +1 or -1 from the encoding DIR (R15). -/
def State.delta (s : State) : Int := if s.dir = 0#1 then 1 else -1

/-- The encoding DIR of a direction: 0 for +1, 1 for -1 (R15). -/
def dirOf (d : Int) : BitVec 1 := if d = 1 then 0#1 else 1#1

/-- `DELTA <- d` (R15). -/
def State.setDelta (d : Int) (s : State) : State := { s with dir := dirOf d }

/-- The cause code of R106. -/
def Cause.code : Cause → BitVec 4
  | .decodeError => 1#4
  | .invalidInput => 2#4
  | .transportError => 3#4
  | .illegalCommand => 4#4

/-- STATUS with FAULT = 1, the given CAUSE, bits 3:1 zero (R17, R109). -/
def faultStatus (c : Cause) : BitVec 8 := c.code ++ 0#3 ++ 1#1

/-- STATUS.FAULT, bit 0: the block is halted (R17, R110). -/
def State.halted (s : State) : Bool := s.status.getLsbD 0

/-- STATUS.CAUSE, bits 7:4 (R17). -/
def State.cause (s : State) : BitVec 4 := s.status.extractLsb' 4 4

/-- STATUS as a register read sees it: bits 3:1 are hardwired 0 (R17). -/
def State.readStatus (s : State) : BitVec 8 := s.status &&& 0xF1#8

end Sys2Proof.Machine
end

