-- ==== Sys2Proof/Machine/Ops.lean ====
section
/-! DEFINITION. The named operations over buffers and registers: MemRead and MemWrite (20_memory.md R33, R34), the
register writes of R8, `emit` (R21), fault entry (60_exceptions.md R109) and, beside it, the only way back from a fault,
the block reset (70_reset_and_hazards.md R120). -/

namespace Sys2Proof.Machine

/-- The byte written at index `i` since reset, if any. -/
def Memory.find : Memory → Nat → Option Byte
  | [], _ => none
  | c :: m, i => if c.1 = i then some c.2 else Memory.find m i

/-- The bytes `v` at indices `i`, `i+1`, ... -/
def Memory.cells : Nat → List Byte → Memory
  | _, [] => []
  | i, b :: v => (i, b) :: Memory.cells (i + 1) v

/-- The bytes at indices `i ..< i + len(v)` replaced by `v` (R34); the canonical form is kept. -/
def Memory.splice (i : Nat) (v : List Byte) (m : Memory) : Memory :=
  m.filter (fun c => decide (c.1 < i)) ++ Memory.cells i v ++
    m.filter (fun c => decide (i + v.length ≤ c.1))

/-- The contents of a buffer. -/
def State.mem (s : State) : Buf → Memory
  | .str => s.str
  | .win => s.win
  | .frame => s.frame

/-- Byte `i` of a buffer: the value last written, or the unspecified reset value (R33, U3). -/
def State.byte (s : State) (b : Buf) (i : Nat) : Byte :=
  match Memory.find (s.mem b) i with
  | some v => v
  | none => Config.unspecifiedByte s.epoch b i

/-- `MemRead(space, i, n)` of a buffer (R33): `n` bytes in ascending index order; `none` outside the space, where the
spec defines no read. -/
def State.memRead (s : State) (b : Buf) (i n : Nat) : Option (List Byte) :=
  if i + n ≤ s.params.bufSize b then some ((List.range n).map fun j => s.byte b (i + j)) else none

/-- `MemWrite(space, i, len(v), v)` (R34). -/
def State.memWrite (b : Buf) (i : Nat) (v : List Byte) (s : State) : State :=
  match b with
  | .str => { s with str := Memory.splice i v s.str }
  | .win => { s with win := Memory.splice i v s.win }
  | .frame => { s with frame := Memory.splice i v s.frame }

/-- `emit FrameOut(f)` (R8, R21). -/
def State.emit (f : List Byte) (s : State) : State := { s with out := s.out ++ [f] }

/-- `TICKER <- t` (R8, R14): the 16-bit register takes the integer. Every value a command computes fits while
SLEN ≤ STR_MAX (R58; log entry 11). -/
def State.setTicker (t : Int) (s : State) : State := { s with ticker := BitVec.ofInt 16 t }

/-- `SLEN <- n` (R16). -/
def State.setSlen (n : Half) (s : State) : State := { s with slen := n }

/-- Fault entry `raise c(w)` (R109): FAULT, CAUSE and FCMD are written and nothing else changes. -/
def State.raise (c : Cause) (w : Word) (s : State) : State :=
  { s with status := faultStatus c, fcmd := w }

/-- The command index advances by 1 on every command, whatever it does (R11). -/
def State.advance (s : State) : State := { s with ci := s.ci + 1 }

/-- The model's own: the host's remaining transactions. -/
def State.setPending (p : List HostTxn) (s : State) : State := { s with pending := p }

/-- The model's own: a read transaction returns `r` to the host (R39). -/
def State.answer (r : Reply) (s : State) : State := { s with replies := s.replies ++ [r] }

/-- The reset event (R120): every piece of state takes its value of R25; the parameters are not changed; STR, WIN and
FRAME become unspecified anew (a fresh epoch). The host's own lists are the host's (log entry 13). -/
def State.blockReset (s : State) : State :=
  { State.reset with
    params := s.params
    epoch := s.epoch + 1
    pending := s.pending
    replies := s.replies }

/-- The current string `S = STR[0 ..< SLEN]` (44_string_load.md R102). -/
def State.currentString (s : State) : Option (List Byte) := s.memRead .str 0 s.slen.toNat

end Sys2Proof.Machine
end

