-- ==== Sys2Proof/Machine/Packer.lean ====
section
/-! DEFINITION. Stage 3, the quantizer, and the command PACK (41_pixel_packer.md). -/

namespace Sys2Proof.Machine

/-- Two samples in one byte: the high nibble of `lo` in the low nibble, the high nibble of `hi` in the high nibble
(the shape of the three formulas of R66; truncation, R67). -/
def nibbles (lo hi : Byte) : Byte := (lo >>> 4) ||| ((hi >>> 4) <<< 4)

/-- byte0, byte1, byte2 of one pair: `P0` the earlier pixel, `P1` the later one (R66). -/
def packPair (p0r p0g p0b p1r p1g p1b : Byte) : List Byte :=
  [nibbles p1r p1g, nibbles p1b p0r, nibbles p0g p0b]

/-- Where the bytes of the first pair go relative to those of the later pairs (`PACK_EMIT_ORDER`, R66). -/
def emitPair (order : EmitOrder) (pair later : List Byte) : List Byte :=
  match order with
  | .reverse => later ++ pair
  | .forward => pair ++ later

/-- `pack(x)` (R66); a length that is no multiple of 6 is the error InvalidInput and gives no bytes (R68). -/
def pack (order : EmitOrder) : List Byte → Except Cause (List Byte)
  | [] => .ok []
  | p0r :: p0g :: p0b :: p1r :: p1g :: p1b :: rest =>
    match pack order rest with
    | .ok later => .ok (emitPair order (packPair p0r p0g p0b p1r p1g p1b) later)
    | .error c => .error c
  | _ => .error .invalidInput

/-- PACK (R65). -/
def execPack (s : State) : Host.Outcome State Fault Refusal :=
  match s.memRead .win 0 s.params.winB with
  | none => .fault (.outsideSpace .win 0 s.params.winB)
  | some x =>
    match pack s.params.emitOrder x with
    | .error c => .next (s.raise c (encode .pack))
    | .ok f => .next ((s.memWrite .frame 0 f).emit f)

end Sys2Proof.Machine
end

