-- ==== Sys2Proof/Machine/StringLoad.lean ====
section
/-! DEFINITION. Loading the string: the commands SLEN, SCHR (44_string_load.md). Neither touches the cursor (R103). -/

namespace Sys2Proof.Machine

/-- SLEN n (R100). -/
def execSlen (n : Half) (s : State) : Host.Outcome State Fault Refusal :=
  if lengthOperand n > s.params.strMax then .next (s.raise .invalidInput (encode (.slen n)))
  else .next (s.setSlen n)

/-- SCHR idx, code (R101). -/
def execSchr (idx : Half) (code : Byte) (s : State) : Host.Outcome State Fault Refusal :=
  if indexOperand idx ≥ s.params.strMax then .next (s.raise .invalidInput (encode (.schr idx code)))
  else .next (s.memWrite .str (indexOperand idx) [code])

end Sys2Proof.Machine
end

