-- ==== Sys2Proof/Machine/Ticker.lean ====
section
/-! DEFINITION. Stage 4, the scroll cursor, and the commands TICK, RTIK (43_scroll_ticker.md). -/

namespace Sys2Proof.Machine

/-- `tick_next(t, d, n)` (R91), exact over the integers: the upper bound is tested first (D12). -/
def tickNext (p : Params) (t d n : Int) : Int × Int :=
  let bound := (n - 1) * p.cellPx
  let u := t + d
  if u ≥ bound then (bound, -1)
  else if u ≤ 0 then (0, 1)
  else (u, d)

/-- TICK (R90). -/
def execTick (s : State) : Host.Outcome State Fault Refusal :=
  if s.slen = 0#16 then .next (s.raise .invalidInput (encode .tick))
  else
    let r := tickNext s.params s.ticker.toNat s.delta s.slen.toNat
    .next ((s.setTicker r.1).setDelta r.2)

/-- RTIK (R92). -/
def execRtik (s : State) : Host.Outcome State Fault Refusal :=
  .next ((s.setTicker 0).setDelta 1)

end Sys2Proof.Machine
end

