-- ==== Sys2Proof/Machine/GlyphIndex.lean ====
section
/-! DEFINITION. The atlas as the windower reads it, the check of a font configuration, and stage 1, the glyph index
function (40_glyph_index.md). -/

namespace Sys2Proof.Machine

/-- `MemRead(ATLAS, (r, b), n)` (20_memory.md R33): bytes `b ..< b + n` of row `r`. A read past the end of a row gives
fewer bytes, never another value; no command issues one (R33, R60). -/
def atlasRead (p : Params) (r b n : Nat) : List Byte := ((p.rows.getD r []).drop b).take n

/-- `gidx(code)` (R60), exact over the integers (R62): the byte offset of the glyph cell, or 0, the cell at atlas
origin, when the cell does not lie wholly inside the row. -/
def gidx (p : Params) (code : Int) : Nat :=
  let off : Int := (code - p.fcc) * p.cellB
  if off < 0 ∨ off + p.cellB > p.width then 0 else off.toNat

/-- The parameters of a block of the given sizes and emit order with a font: a first character code and the decoded rows
of an image, the result format of the loader (R12, R13, C1). The first CELL_PX pixel rows make the atlas, samples are
bytes (R12, C4), and a font that breaks an invariant of R12 or R13 is refused (U14; log entry 18). -/
def configure (z : Sizes) (order : EmitOrder) (fcc : Nat) (rows : List (List Nat)) : Except Refusal Params :=
  let cell := rows.take z.cellPx
  let atlas : List (List Byte) := cell.map fun row => row.map (BitVec.ofNat 8)
  let width := (atlas.headD []).length
  if ¬ (cell.all fun row => row.all fun x => decide (x < 2 ^ 8)) then .error .fontConfiguration
  else if h : fcc < 2 ^ z.codeW ∧ width % 3 = 0 ∧ z.cellB ≤ width ∧ atlas.length = z.cellPx ∧
      ∀ row ∈ atlas, row.length = width then
    .ok ⟨z, order, fcc, width, atlas, h.1, h.2.1, h.2.2.1, h.2.2.2.1, h.2.2.2.2⟩
  else .error .fontConfiguration

end Sys2Proof.Machine
end

