-- ==== Sys2Proof/Machine/Window.lean ====
section
/-! DEFINITION. Stage 2, the pixel windower, and the commands WCHR, WSTR, WCUR (42_glyph_window.md). -/

namespace Sys2Proof.Machine

/-- `for_char(code)` (R76): the CELL_B bytes at `gidx(code)` of each atlas row, row-major. -/
def forChar (p : Params) (code : Int) : List Byte :=
  (List.range p.cellPx).flatMap fun r => atlasRead p r (gidx p code) p.cellB

/-- Row `r` of a window that starts `shift` pixels inside the cell at `col0` and goes on into the cell at `col1`: the
last `CELL_PX - shift` pixels of the one, then the first `shift` pixels of the other (R78). -/
def windowRow (p : Params) (col0 col1 shift r : Nat) : List Byte :=
  atlasRead p r (col0 + 3 * shift) (3 * (p.cellPx - shift)) ++ atlasRead p r col1 (3 * shift)

/-- The rows of such a window, row-major (R78). -/
def windowRows (p : Params) (col0 col1 shift : Nat) : List Byte :=
  (List.range p.cellPx).flatMap (windowRow p col0 col1 shift)

/-- `for_string(k)` on the string `str` (R78, R80): the empty-string test first, then the column test; each character's
fallback applied on its own (R84). The last alternative is never taken: both characters are inside the string for a
column in range (R80). -/
def forString (p : Params) (str : List Byte) (k : Int) : Except Cause (List Byte) :=
  if str.length = 0 then .error .invalidInput
  else if k < 0 ∨ k > p.cellPx * ((str.length : Int) - 1) then .error .invalidInput
  else
    match str[k.toNat / p.cellPx]?, str[(k.toNat + (p.cellPx - 1)) / p.cellPx]? with
    | some code0, some code1 =>
      .ok (windowRows p (gidx p code0.toNat) (gidx p code1.toNat) (k.toNat % p.cellPx))
    | _, _ => .error .invalidInput

/-- The window of the current string at column `k`, or the fault of the command word `w` (R77, R79). -/
def windowString (k : Int) (w : Word) (s : State) : Host.Outcome State Fault Refusal :=
  match s.currentString with
  | none => .fault (.outsideSpace .str 0 s.slen.toNat)
  | some str =>
    match forString s.params str k with
    | .error c => .next (s.raise c w)
    | .ok x => .next (s.memWrite .win 0 x)

/-- WCHR code (R75). -/
def execWchr (code : Byte) (s : State) : Host.Outcome State Fault Refusal :=
  .next (s.memWrite .win 0 (forChar s.params (codeOperand code)))

/-- WSTR k (R77). -/
def execWstr (k : Half) (s : State) : Host.Outcome State Fault Refusal :=
  windowString (columnOperand k) (encode (.wstr k)) s

/-- WCUR (R79): WSTR with `k = TICKER`. -/
def execWcur (s : State) : Host.Outcome State Fault Refusal :=
  windowString s.ticker.toNat (encode .wcur) s

end Sys2Proof.Machine
end

