-- ==== Sys2Proof/Machine/Dispatch.lean ====
section
/-! DEFINITION. One arm per command: what executing it does on a block that is not halted (45_command_classes.md R54). -/

namespace Sys2Proof.Machine

def exec (i : Instr) (s : State) : Host.Outcome State Fault Refusal :=
  match i with
  | .pack => Sys2Proof.Machine.execPack s
  | .wchr code => Sys2Proof.Machine.execWchr code s
  | .wstr k => Sys2Proof.Machine.execWstr k s
  | .wcur => Sys2Proof.Machine.execWcur s
  | .tick => Sys2Proof.Machine.execTick s
  | .rtik => Sys2Proof.Machine.execRtik s
  | .slen n => Sys2Proof.Machine.execSlen n s
  | .schr idx code => Sys2Proof.Machine.execSchr idx code s

end Sys2Proof.Machine
end

