-- ==== Sys2Proof/Machine/Port.lean ====
section
/-! DEFINITION. The host's four kinds of transaction (20_memory.md R39), the priority of the tests before a command
(60_exceptions.md R111), the halted block (R110). -/

namespace Sys2Proof.Machine

/-- `Cmd(w)`: the command index advances whatever happens (R11); a halted block ignores the word without decoding it
(R110); a word that is no command raises IllegalCommand (R108); a command executes (R111). -/
def serveCommand (w : Word) (s : State) : Host.Outcome State Fault Refusal :=
  if s.halted then .next s.advance
  else
    match decode w with
    | .illegal _ => .next (s.advance.raise .illegalCommand w)
    | .command i => exec i s.advance

/-- The value of register number `n` (10_state.md R22); `none` for a reserved number. -/
def registerValue (s : State) : Nat → Option Word
  | 0 => some (s.readStatus.setWidth 32)
  | 1 => some (s.ticker.setWidth 32)
  | 2 => some (s.dir.setWidth 32)
  | 3 => some (s.slen.setWidth 32)
  | 4 => some s.fcmd
  | _ => none

/-- `RegRead(n)` (R39, U5). -/
def serveRegRead (n : Nat) (s : State) : Host.Outcome State Fault Refusal :=
  match registerValue s n with
  | some v => .next (s.answer (.reg v))
  | none => .refused (.reservedRegister n)

/-- `BufRead(ATLAS, (r, b))` (R39, U6). -/
def serveAtlasRead (r b : Nat) (s : State) : Host.Outcome State Fault Refusal :=
  match atlasRead s.params r b 1 with
  | [v] => .next (s.answer (.byte v))
  | _ => .refused (.outsideAtlas r b)

/-- `BufRead(space, i)` of STR, WIN or FRAME (R39, U6). -/
def serveBufRead (b : Buf) (i : Nat) (s : State) : Host.Outcome State Fault Refusal :=
  match s.memRead b i 1 with
  | some [v] => .next (s.answer (.byte v))
  | _ => .refused (.outsideBuffer b i)

/-- One host transaction. -/
def serve (t : HostTxn) (s : State) : Host.Outcome State Fault Refusal :=
  match t with
  | .cmd w => serveCommand w s
  | .regRead n => serveRegRead n s
  | .atlasRead r b => serveAtlasRead r b s
  | .bufRead b i => serveBufRead b i s
  | .reset => .next s.blockReset

/-- The next transaction of the host's list; with none, the block does nothing and keeps all its state (R117, R122). -/
def serveNext (s : State) : Host.Outcome State Fault Refusal :=
  match s.pending with
  | [] => .next s
  | t :: rest => serve t (s.setPending rest)

end Sys2Proof.Machine
end

