-- ==== Sys2Proof/Machine/Step.lean ====
section
/-! DEFINITION. One step of the machine: the host's next transaction, whole (20_memory.md R38, R39). -/

namespace Sys2Proof.Machine

def step : State → Host.Outcome State Fault Refusal := serveNext

/-- The state in which the host's next transaction is `Cmd` of the given word; all else as in `s`. -/
def State.withFetchWord (s : State) (nbits w : Nat) : State :=
  s.setPending (.cmd (tableWord nbits w) :: s.pending)

end Sys2Proof.Machine
end

