-- ==== Sys2Proof/Safety.lean ====
section
/-! DEFINITION. The terms claims use: a good state, the invariants of the machine (10_state.md R23), the preconditions of
the commands (60_exceptions.md R107), and what it means that a part of the state is unchanged. -/

namespace Sys2Proof.Machine

/-- No fault recorded: a state with STATUS.FAULT = 1 is never a good final state (R110). -/
def State.good (s : State) : Bool := !s.halted

/-- The current string has a length that fits the buffer (R16): every command answers a next state. -/
def State.stringFits (s : State) : Prop := s.slen.toNat ≤ s.params.strMax

/-- The characters of the current string (R102). -/
def State.characters (s : State) : List Byte := (List.range s.slen.toNat).map (s.byte .str)

/-- The invariants of R23: the ranges of SLEN and TICKER, the values STATUS can hold (STATUS[3:1] = 0, CAUSE 0, 2 or 4, and
0 whole while FAULT = 0), FCMD 0 while FAULT = 0; with them, that the buffers keep the canonical form and their sizes and
that every element of OUT is a frame (R21). -/
def State.Inv (s : State) : Prop :=
  s.stringFits ∧ s.ticker.toNat ≤ s.params.cellPx * (s.params.strMax - 1) ∧
  (s.status = 0x00#8 ∨ s.status = 0x21#8 ∨ s.status = 0x41#8) ∧
  (s.halted = false → s.fcmd = 0#32) ∧
  Memory.wf s.params.strMax s.str = true ∧ Memory.wf s.params.winB s.win = true ∧
  Memory.wf s.params.frameB s.frame = true ∧ (∀ f ∈ s.out, f.length = s.params.frameB)

/-- FRAME holds the last element of OUT, and is unwritten while OUT is empty (R129). -/
def State.FrameIsLastOut (s : State) : Prop :=
  s.frame = match s.out.getLast? with
    | none => []
    | some f => Memory.cells 0 f

/-- The command's own tests pass: exactly the complement of the conditions of R107. -/
def State.accepts (s : State) : Instr → Bool
  | .pack => true
  | .wchr _ => true
  | .wstr k => decide (s.slen.toNat ≠ 0) && decide (k.toNat ≤ s.params.cellPx * (s.slen.toNat - 1))
  | .wcur => decide (s.slen.toNat ≠ 0) && decide (s.ticker.toNat ≤ s.params.cellPx * (s.slen.toNat - 1))
  | .tick => decide (s.slen.toNat ≠ 0)
  | .rtik => true
  | .slen n => decide (n.toNat ≤ s.params.strMax)
  | .schr idx _ => decide (idx.toNat < s.params.strMax)

/-- TICKER and DELTA are unchanged from `s` to `t`. -/
def sameCursor (s t : State) : Prop := t.ticker = s.ticker ∧ t.dir = s.dir

/-- STATUS and FCMD are unchanged. -/
def sameFault (s t : State) : Prop := t.status = s.status ∧ t.fcmd = s.fcmd

/-- Every byte of a buffer reads as before. -/
def sameBytes (b : Buf) (s t : State) : Prop := ∀ i, t.byte b i = s.byte b i

/-- Every parameter of R5 is unchanged. -/
def sameParameters (s t : State) : Prop := t.params = s.params

/-- The command index, the number of resets and the host's two lists are unchanged. -/
def sameHostSide (s t : State) : Prop :=
  t.ci = s.ci ∧ t.epoch = s.epoch ∧ t.pending = s.pending ∧ t.replies = s.replies

/-- Between `s` and `t` nothing changes but the bytes `i ..< i + n` of buffer `b` and, where a claim says so, OUT. -/
def onlyBytesChange (b : Buf) (i n : Nat) (s t : State) : Prop :=
  (∀ b' a, ¬ (b' = b ∧ i ≤ a ∧ a < i + n) → t.byte b' a = s.byte b' a) ∧
  t.slen = s.slen ∧ sameCursor s t ∧ sameFault s t ∧ sameParameters s t ∧ sameHostSide s t

/-- No byte of any buffer changes, nor OUT, the parameters and the host's side: what a command that writes registers
only leaves alone. -/
def onlyRegistersChange (s t : State) : Prop :=
  (∀ b, sameBytes b s t) ∧ t.out = s.out ∧ sameParameters s t ∧ sameHostSide s t

/-- The effect of fault entry `raise c(w)` (R109): FAULT, CAUSE and FCMD written, nothing else changed. -/
def faultEntry (c : Cause) (w : Word) (s t : State) : Prop :=
  t.halted = true ∧ t.cause = c.code ∧ t.status = faultStatus c ∧ t.fcmd = w ∧
  t.slen = s.slen ∧ sameCursor s t ∧ onlyRegistersChange s t

/-- Nibble `h` of a packed frame, first nibble low (R69): the low nibble of byte `h / 2` for even `h`, else its high
nibble. -/
def nibbleAt (out : List Byte) (h : Nat) : Option (BitVec 4) :=
  (out[h / 2]?).map fun b => if h % 2 = 0 then b.extractLsb' 0 4 else b.extractLsb' 4 4

/-- The high nibble of a sample, all of it that the quantizer keeps (R67). -/
def highNibble (b : Byte) : BitVec 4 := b.extractLsb' 4 4

/-- Row `r` of the glyph cell of a character (R81). -/
def cellRow (p : Params) (r : Nat) (c : Byte) : List Byte := atlasRead p r (gidx p c.toNat) p.cellB

/-- Row `r` of the virtual strip of a string (R81). -/
def strip (p : Params) (str : List Byte) (r : Nat) : List Byte := str.flatMap (cellRow p r)

/-- `m` ticks of the cursor from `(t, d)` under a string of length `n` (R94). -/
def ticks (p : Params) (n : Int) : Nat → Int × Int → Int × Int
  | 0, c => c
  | m + 1, c => ticks p n m (tickNext p c.1 c.2 n)

end Sys2Proof.Machine
end

