-- ==== Sys2Proof/Certificates/Slice0/Obligations.lean ====
section
/-! DEFINITION. The statements for the provers. Each docstring names the rule of spec/ it formalises. The parameters of R5
stand in them as arguments, so that they hold for every value a parameter may take; `ParameterValues` says which values
this hardware has (CELL_PX = 8, CELL_B = 24, WIN_B = 192, FRAME_B = 96, STR_MAX = 256), and that they stay. `s.stringFits`
(SLEN ≤ STR_MAX) is the one premise on the state that rules out states no run reaches; it is part of `State.Inv`, which
`StepKeepsInvariant` states. -/

open Sys2Proof Sys2Proof.Machine

/-! ## Encoding -/

/-- The words of section 7 and the illegal words of section 6 of 95_test_vectors.md decode as the spec says. -/
def Obligations.TableWordsDecode : Prop :=
  decode 0x01000000#32 = .command .pack ∧
  decode 0x02300000#32 = .command (.wchr 48#8) ∧
  decode 0x02390000#32 = .command (.wchr 57#8) ∧
  decode 0x02FF0000#32 = .command (.wchr 255#8) ∧
  decode 0x03000000#32 = .command (.wstr 0#16) ∧
  decode 0x030007F8#32 = .command (.wstr 2040#16) ∧
  decode 0x0300FFFF#32 = .command (.wstr 65535#16) ∧
  decode 0x04000000#32 = .command .wcur ∧
  decode 0x05000000#32 = .command .tick ∧
  decode 0x06000000#32 = .command .rtik ∧
  decode 0x07000003#32 = .command (.slen 3#16) ∧
  decode 0x08300002#32 = .command (.schr 2#16 48#8) ∧
  decode 0x00000000#32 = .illegal .unassignedOpcode ∧
  decode 0xFFFFFFFF#32 = .illegal .unassignedOpcode ∧
  decode 0x09000000#32 = .illegal .unassignedOpcode ∧
  decode 0x01000001#32 = .illegal .nonZeroField ∧
  decode 0x02310001#32 = .illegal .nonZeroField ∧
  decode 0x03010000#32 = .illegal .nonZeroField ∧
  decode 0x05010000#32 = .illegal .nonZeroField

/-- R48: a word is the command of a row exactly when `w & mask = match`, and its operands are the fields of the row. -/
def Obligations.DecodeMatchesMaskAndMatch : Prop :=
  ∀ w : Word,
    (decode w = .command .pack ↔ w &&& 0xFFFFFFFF#32 = 0x01000000#32) ∧
    (∀ code, decode w = .command (.wchr code) ↔
      w &&& 0xFF00FFFF#32 = 0x02000000#32 ∧ code = w.extractLsb' 16 8) ∧
    (∀ k, decode w = .command (.wstr k) ↔
      w &&& 0xFFFF0000#32 = 0x03000000#32 ∧ k = w.extractLsb' 0 16) ∧
    (decode w = .command .wcur ↔ w &&& 0xFFFFFFFF#32 = 0x04000000#32) ∧
    (decode w = .command .tick ↔ w &&& 0xFFFFFFFF#32 = 0x05000000#32) ∧
    (decode w = .command .rtik ↔ w &&& 0xFFFFFFFF#32 = 0x06000000#32) ∧
    (∀ n, decode w = .command (.slen n) ↔
      w &&& 0xFFFF0000#32 = 0x07000000#32 ∧ n = w.extractLsb' 0 16) ∧
    (∀ idx code, decode w = .command (.schr idx code) ↔
      w &&& 0xFF000000#32 = 0x08000000#32 ∧ code = w.extractLsb' 16 8 ∧ idx = w.extractLsb' 0 16)

/-- R49: which words are illegal, that an illegal word given to a block that is not halted raises IllegalCommand, and how
many words are legal. -/
def Obligations.IllegalWordsAndTheirCount : Prop :=
  (∀ w : Word, (∃ why, decode w = .illegal why) ↔
    (w.toNat / 2 ^ 24 = 0 ∨ 9 ≤ w.toNat / 2 ^ 24 ∨
      (w.toNat / 2 ^ 24 ∈ [1, 4, 5, 6] ∧ w.toNat % 2 ^ 24 ≠ 0) ∨
      (w.toNat / 2 ^ 24 = 2 ∧ w.toNat % 2 ^ 16 ≠ 0) ∨
      (w.toNat / 2 ^ 24 ∈ [3, 7] ∧ w.toNat / 2 ^ 16 % 2 ^ 8 ≠ 0))) ∧
  (∀ (s : State) (w : Word) (rest : List HostTxn), s.pending = .cmd w :: rest → s.halted = false →
    (∃ why, decode w = .illegal why) →
    ∃ t, step s = .next t ∧ faultEntry .illegalCommand w (s.setPending rest).advance t) ∧
  Set.ncard {w : Word | ∃ i, decode w = .command i} = 4 * 1 + 1 * 2 ^ 8 + 2 * 2 ^ 16 + 2 ^ 24

/-- R53: decode as the case analysis of the rule, by arithmetic on the word, and decode and encode inverse to each other,
every operand at every value its field admits. -/
def Obligations.DecodeEncodeInverse : Prop :=
  (∀ i : Instr, decode (encode i) = .command i) ∧
  (∀ (w : Word) (i : Instr), decode w = .command i → encode i = w) ∧
  (∀ w : Word,
    let op := w.toNat / 2 ^ 24
    let a := w.toNat / 2 ^ 16 % 2 ^ 8
    let imm := w.toNat % 2 ^ 16
    decode w =
      match op with
      | 1 => if a = 0 ∧ imm = 0 then .command .pack else .illegal .nonZeroField
      | 2 => if imm = 0 then .command (.wchr (BitVec.ofNat 8 a)) else .illegal .nonZeroField
      | 3 => if a = 0 then .command (.wstr (BitVec.ofNat 16 imm)) else .illegal .nonZeroField
      | 4 => if a = 0 ∧ imm = 0 then .command .wcur else .illegal .nonZeroField
      | 5 => if a = 0 ∧ imm = 0 then .command .tick else .illegal .nonZeroField
      | 6 => if a = 0 ∧ imm = 0 then .command .rtik else .illegal .nonZeroField
      | 7 => if a = 0 then .command (.slen (BitVec.ofNat 16 imm)) else .illegal .nonZeroField
      | 8 => .command (.schr (BitVec.ofNat 16 imm) (BitVec.ofNat 8 a))
      | _ => .illegal .unassignedOpcode)

/-- R52: the fixed expansions of the three pseudo-instructions. -/
def Obligations.PseudoInstructionsExpand : Prop :=
  (∀ code, expand (.fchr code) = some [.wchr code, .pack]) ∧
  expand .ftik = some [.wcur, .pack, .tick] ∧
  (∀ codes : List Byte, codes.length < 65536 →
    ∃ loads : List Instr, expand (.ldstr codes) =
        some (loads ++ [Instr.slen (BitVec.ofNat 16 codes.length), Instr.rtik]) ∧
      loads.length = codes.length ∧
      ∀ i c, codes[i]? = some c → loads[i]? = some (Instr.schr (BitVec.ofNat 16 i) c))

/-! ## Reset and the invariants of the machine -/

/-- R25, R120: what the reset event leaves, from any state, halted or not; and the same values at State.reset. The bytes
of STR, WIN and FRAME are unspecified: the model's free value of the new reset (log entry 4). -/
def Obligations.ResetEventValues : Prop :=
  (∀ (s : State) (rest : List HostTxn), s.pending = .reset :: rest →
    ∃ t, step s = .next t ∧ t.ticker = 0#16 ∧ t.dir = 0#1 ∧ t.delta = 1 ∧ t.slen = 0#16 ∧
      t.status = 0x00#8 ∧ t.fcmd = 0#32 ∧ t.out = [] ∧ t.ci = 0 ∧ t.halted = false ∧
      sameParameters s t ∧ t.pending = rest ∧
      (∀ b i, t.byte b i = Config.unspecifiedByte t.epoch b i)) ∧
  State.reset.ticker = 0#16 ∧ State.reset.delta = 1 ∧ State.reset.slen = 0#16 ∧
  State.reset.status = 0x00#8 ∧ State.reset.fcmd = 0#32 ∧ State.reset.out = [] ∧ State.reset.ci = 0 ∧
  (∀ b i, State.reset.byte b i = Config.unspecifiedByte State.reset.epoch b i)

/-- R5: the values of the parameters of this hardware at State.reset, ATLAS, ATLAS_W and FCC left open; what relates the
parameters in every state (the sums under the table of R5, R12, R13, R36); and that after any number of steps, whatever
the host's transactions, they are what they were at State.reset. -/
def Obligations.ParameterValues : Prop :=
  (State.reset.params.codeW = 8 ∧ State.reset.params.strMax = 256 ∧
    State.reset.params.emitOrder = .reverse ∧ State.reset.params.cellPx = 8 ∧
    State.reset.params.cellB = 24 ∧ State.reset.params.winB = 192 ∧ State.reset.params.frameB = 96) ∧
  (∀ s : State,
    let p := s.params
    p.cellB = p.cellPx * 3 ∧ p.winB = p.cellPx * p.cellB ∧ 2 * p.frameB = p.winB ∧ p.winB % 6 = 0 ∧
    p.width % 3 = 0 ∧ p.cellB ≤ p.width ∧ p.rows.length = p.cellPx ∧
    (∀ row ∈ p.rows, row.length = p.width) ∧ p.fcc < 2 ^ p.codeW) ∧
  (∀ (txns : List HostTxn) (n : Nat) (t : State),
    Host.Core.run core n (State.reset.setPending txns) = .next t → t.params = State.reset.params)

/-- The invariants hold at reset (R23, R129). -/
def Obligations.ResetMeetsInvariants : Prop :=
  State.reset.Inv ∧ State.reset.FrameIsLastOut

/-- R23: every step, whatever the host's transaction, keeps the invariants. -/
def Obligations.StepKeepsInvariant : Prop :=
  ∀ s t : State, s.Inv → step s = .next t → t.Inv

/-- R129: FRAME is the last element of OUT, and every step keeps it so. -/
def Obligations.StepKeepsFrameLastOut : Prop :=
  ∀ s t : State, s.Inv → s.FrameIsLastOut → step s = .next t → t.FrameIsLastOut

/-- R11, R131: from every state of the invariant a command answers a next state, never a fault or a refusal of the model,
and advances the command index by exactly 1, whether it completes, faults or is ignored. -/
def Obligations.EveryCommandAnswers : Prop :=
  ∀ (s : State) (w : Word) (rest : List HostTxn), s.Inv → s.pending = .cmd w :: rest →
    ∃ t, step s = .next t ∧ t.ci = s.ci + 1 ∧ t.pending = rest

/-- No step changes a parameter: ATLAS, ATLAS_W and FCC by 10_state.md R12 and R13; PACK_EMIT_ORDER and the sizes because
they are configuration (00_scope.md R5) that reset leaves alone (10_state.md R25, "the other parameters"), and that no
other step changes them rests on log entry 12. -/
def Obligations.ParametersNeverChange : Prop :=
  ∀ s t : State, step s = .next t → sameParameters s t

/-- R21, R24, R44: OUT is only appended to, by one executed PACK one element: the bytes FRAME[0 ..< FRAME_B] in
ascending order; only the reset event empties it. -/
def Obligations.OnlyPackAppendsToOut : Prop :=
  ∀ s t : State, step s = .next t →
    match s.pending with
    | .reset :: _ => t.out = []
    | .cmd w :: _ =>
      if s.halted = false ∧ decode w = .command .pack then
        t.out = s.out ++ [(List.range s.params.frameB).map (t.byte .frame)]
      else t.out = s.out
    | _ => t.out = s.out

/-! ## The step and the host's port -/

/-- R38, R39, R11: on a block that is not halted, a word that decodes to a command (every command is well formed: its
operands have the width of their fields) makes the step exec of that command, on the state in which the transaction is
taken from the host's list and the command index is advanced. -/
def Obligations.StepRunsDecodedCommand : Prop :=
  (∀ (s : State) (w : Word) (rest : List HostTxn) (i : Instr), s.pending = .cmd w :: rest →
    s.halted = false → decode w = .command i → step s = exec i (s.setPending rest).advance) ∧
  (∀ (s : State) (nbits w : Nat) (i : Instr), s.halted = false → decodeTableWord nbits w = some i →
    step (s.withFetchWord nbits w) = exec i s.advance)

/-- R117, R122: with no transaction pending the block keeps all its state. -/
def Obligations.IdleStepChangesNothing : Prop :=
  ∀ s : State, s.pending = [] → step s = .next s

/-- R110: a halted block accepts and ignores every command, only the command index advancing; host reads work as before
and change only the host's list of answers; no transaction but the reset leaves the halt, and reset does. -/
def Obligations.HaltedBlockIgnoresCommands : Prop :=
  ∀ s : State, s.halted = true →
    (∀ w rest, s.pending = .cmd w :: rest → step s = .next { s with pending := rest, ci := s.ci + 1 }) ∧
    (∀ n rest, s.pending = .regRead n :: rest → n < 5 →
      ∃ v, registerValue s n = some v ∧
        step s = .next { s with pending := rest, replies := s.replies ++ [.reg v] }) ∧
    (∀ b i rest, s.pending = .bufRead b i :: rest → i < s.params.bufSize b →
      step s = .next { s with pending := rest, replies := s.replies ++ [.byte (s.byte b i)] }) ∧
    (∀ r b rest v, s.pending = .atlasRead r b :: rest → atlasRead s.params r b 1 = [v] →
      step s = .next { s with pending := rest, replies := s.replies ++ [.byte v] }) ∧
    (∀ t, step s = .next t → t.halted = true ∧ sameFault s t ∨ ∃ rest, s.pending = .reset :: rest) ∧
    (∀ rest, s.pending = .reset :: rest → ∃ t, step s = .next t ∧ t.halted = false)

/-- R22, R39, R17: the five registers by number, STATUS with bits 3:1 zero; a read changes nothing else. -/
def Obligations.RegisterReadPort : Prop :=
  ∀ (s : State) (n : Nat) (rest : List HostTxn) (v : Word), s.pending = .regRead n :: rest →
    (n = 0 ∧ v = (s.status &&& 0xF1#8).setWidth 32 ∨ n = 1 ∧ v = s.ticker.setWidth 32 ∨
      n = 2 ∧ v = s.dir.setWidth 32 ∨ n = 3 ∧ v = s.slen.setWidth 32 ∨ n = 4 ∧ v = s.fcmd) →
    step s = .next { s with pending := rest, replies := s.replies ++ [.reg v] }

/-- R39, R30: a BufRead inside its space answers the byte and changes nothing else. -/
def Obligations.BufferReadPort : Prop :=
  (∀ (s : State) (b : Buf) (i : Nat) (rest : List HostTxn), s.pending = .bufRead b i :: rest →
    i < s.params.bufSize b →
    step s = .next { s with pending := rest, replies := s.replies ++ [.byte (s.byte b i)] }) ∧
  (∀ (s : State) (r b : Nat) (rest : List HostTxn), s.pending = .atlasRead r b :: rest →
    r < s.params.cellPx → b < s.params.width →
    ∃ v, (s.params.rows[r]?.bind fun row => row[b]?) = some v ∧
      step s = .next { s with pending := rest, replies := s.replies ++ [.byte v] })

/-- U5, U6: reads of reserved register numbers and of addresses outside a space are refused by name. -/
def Obligations.ReservedReadsAreRefused : Prop :=
  ∀ (s : State) (rest : List HostTxn),
    (∀ n, s.pending = .regRead n :: rest → 5 ≤ n → step s = .refused (.reservedRegister n)) ∧
    (∀ b i, s.pending = .bufRead b i :: rest → s.params.bufSize b ≤ i →
      step s = .refused (.outsideBuffer b i)) ∧
    (∀ r b, s.pending = .atlasRead r b :: rest → (s.params.cellPx ≤ r ∨ s.params.width ≤ b) →
      step s = .refused (.outsideAtlas r b))

/-! ## Faults -/

/-- R109: a command either records no fault, or has had no effect but the three writes of fault entry, with the word given
and one of the two causes the block raises. -/
def Obligations.FaultsArePrecise : Prop :=
  ∀ (s t : State) (w : Word) (rest : List HostTxn), s.pending = .cmd w :: rest → step s = .next t →
    sameFault s t ∨
      faultEntry .invalidInput w (s.setPending rest).advance t ∨
      faultEntry .illegalCommand w (s.setPending rest).advance t

/-- R107: every command raises InvalidInput exactly on its conditions, and PACK, WCHR and RTIK never do; it is the error
of the pure function `pack` on a length that is no multiple of 6. -/
def Obligations.InvalidInputCauses : Prop :=
  (∀ s : State, s.stringFits →
    (∀ k : Half, (s.slen.toNat = 0 ∨ s.params.cellPx * (s.slen.toNat - 1) < k.toNat) →
      ∃ t, exec (.wstr k) s = .next t ∧ faultEntry .invalidInput (encode (.wstr k)) s t) ∧
    ((s.slen.toNat = 0 ∨ s.params.cellPx * (s.slen.toNat - 1) < s.ticker.toNat) →
      ∃ t, exec .wcur s = .next t ∧ faultEntry .invalidInput (encode .wcur) s t) ∧
    (s.slen.toNat = 0 → ∃ t, exec .tick s = .next t ∧ faultEntry .invalidInput (encode .tick) s t) ∧
    (∀ n : Half, s.params.strMax < n.toNat →
      ∃ t, exec (.slen n) s = .next t ∧ faultEntry .invalidInput (encode (.slen n)) s t) ∧
    (∀ (idx : Half) (code : Byte), s.params.strMax ≤ idx.toNat →
      ∃ t, exec (.schr idx code) s = .next t ∧
        faultEntry .invalidInput (encode (.schr idx code)) s t) ∧
    (∀ i : Instr, s.accepts i = true → ∃ t, exec i s = .next t ∧ sameFault s t) ∧
    s.accepts .pack = true ∧ (∀ code, s.accepts (.wchr code) = true) ∧ s.accepts .rtik = true) ∧
  (∀ (order : EmitOrder) (x : List Byte), x.length % 6 ≠ 0 → pack order x = .error .invalidInput)

/-- Log entry 10, the model's choice: with SLEN above STR_MAX, which no run reaches, WSTR and WCUR would read past STR and
stop with the model's own fault. -/
def Obligations.OversizedLengthStops : Prop :=
  ∀ s : State, ¬ s.stringFits →
    (∀ k, exec (.wstr k) s = .fault (.outsideSpace .str 0 s.slen.toNat)) ∧
    exec .wcur s = .fault (.outsideSpace .str 0 s.slen.toNat)

/-! ## The glyph index and the font -/

/-- R60: the formula of the glyph index, and that the CELL_B = 24 bytes at its result lie inside the row. -/
def Obligations.GlyphIndexInsideAtlas : Prop :=
  ∀ (p : Params) (code : Int),
    let off : Int := (code - p.fcc) * p.cellB
    ((gidx p code : Nat) : Int) = (if off < 0 ∨ off + p.cellB > p.width then 0 else off) ∧
    gidx p code % p.cellB = 0 ∧ gidx p code + p.cellB ≤ p.width

/-- R64: which codes are in range, and that no cell reaches into the bytes after the last whole cell. -/
def Obligations.GlyphIndexRange : Prop :=
  ∀ (p : Params) (code : Int),
    let ng : Int := p.width / p.cellB
    1 ≤ ng ∧
    ((p.fcc : Int) ≤ code ∧ code ≤ p.fcc + ng - 1 →
      ((gidx p code : Nat) : Int) = (code - p.fcc) * p.cellB) ∧
    (¬ ((p.fcc : Int) ≤ code ∧ code ≤ p.fcc + ng - 1) → gidx p code = 0) ∧
    gidx p (p.fcc : Int) = 0 ∧ gidx p code + p.cellB ≤ p.cellB * (p.width / p.cellB)

/-- R61: an out-of-range code shows the glyph of FCC, silently: `for_char` of it is `for_char(FCC)`, and WCHR of it writes
that window and records no fault. -/
def Obligations.OutOfRangeCodeShowsFirstGlyph : Prop :=
  (∀ (p : Params) (c : Int), gidx p c = 0 → forChar p c = forChar p p.fcc) ∧
  (∀ (s : State) (c : Byte), gidx s.params c.toNat = 0 →
    ∃ t, exec (.wchr c) s = .next t ∧ sameFault s t ∧
      ∀ i, i < s.params.winB → (forChar s.params s.params.fcc)[i]? = some (t.byte .win i))

/-- R12, R13, U14: exactly the configurations that satisfy the atlas invariants are accepted, and the parameters are what
was given: the sizes, the emit order, the code and the first CELL_PX = 8 pixel rows. -/
def Obligations.FontConfigurationChecked : Prop :=
  ∀ (z : Sizes) (order : EmitOrder) (fcc : Nat) (rows : List (List Nat)),
    ((∃ p, configure z order fcc rows = .ok p) ↔
      fcc < 2 ^ z.codeW ∧ z.cellPx ≤ rows.length ∧
      ∃ w, w % 3 = 0 ∧ z.cellB ≤ w ∧ ∀ row ∈ rows.take z.cellPx, row.length = w ∧ ∀ x ∈ row, x < 256) ∧
    (∀ p, configure z order fcc rows = .ok p →
      p.toSizes = z ∧ p.emitOrder = order ∧ p.fcc = fcc ∧
        p.rows.map (fun row => row.map BitVec.toNat) = rows.take z.cellPx) ∧
    (∀ e, configure z order fcc rows = .error e → e = .fontConfiguration)

/-! ## The quantizer -/

/-- R66: the three byte formulas and where each pair's bytes land, under both emit orders. -/
def Obligations.PackFormulas : Prop :=
  ∀ (order : EmitOrder) (q : Nat) (x : List Byte), x.length = 6 * q →
    ∃ out, pack order x = .ok out ∧ out.length = 3 * q ∧
      ∀ j, j < q → ∀ p0r p0g p0b p1r p1g p1b : Byte,
        x[6 * j]? = some p0r → x[6 * j + 1]? = some p0g → x[6 * j + 2]? = some p0b →
        x[6 * j + 3]? = some p1r → x[6 * j + 4]? = some p1g → x[6 * j + 5]? = some p1b →
        let m := match order with
          | .reverse => 3 * (q - 1 - j)
          | .forward => 3 * j
        out[m]? = some ((p1r >>> 4) ||| ((p1g >>> 4) <<< 4)) ∧
        out[m + 1]? = some ((p1b >>> 4) ||| ((p0r >>> 4) <<< 4)) ∧
        out[m + 2]? = some ((p0g >>> 4) ||| ((p0b >>> 4) <<< 4))

/-- R67: only the high nibble of a sample counts. -/
def Obligations.PackKeepsHighNibblesOnly : Prop :=
  ∀ (order : EmitOrder) (x y : List Byte), x.map highNibble = y.map highNibble →
    pack order x = pack order y

/-- R68: the pure function answers InvalidInput and no bytes exactly when the length is no multiple of 6; the PACK command
never does, its operand being WIN_B = 192 bytes, a multiple of 6. -/
def Obligations.PackRefusesOddPixelCounts : Prop :=
  (∀ (order : EmitOrder) (x : List Byte),
    (x.length % 6 ≠ 0 → pack order x = .error .invalidInput) ∧
    (x.length % 6 = 0 → ∃ out, pack order x = .ok out)) ∧
  (∀ s : State, ∃ t, exec .pack s = .next t ∧ sameFault s t)

/-- R69: the nibble-stream form. Under `reverse` the pixels come in reverse order, R, G, B kept inside each; under
`forward` pairs keep their order and the two pixels of each pair are swapped. -/
def Obligations.PackIsNibbleStream : Prop :=
  ∀ (q : Nat) (x : List Byte), x.length = 6 * q →
    (∃ out, pack .reverse x = .ok out ∧ out.length = 3 * q ∧
      ∀ i c v, i < 2 * q → c < 3 → x[3 * i + c]? = some v →
        nibbleAt out (3 * (2 * q - 1 - i) + c) = some (highNibble v)) ∧
    (∃ out, pack .forward x = .ok out ∧ out.length = 3 * q ∧
      ∀ i c v, i < 2 * q → c < 3 → x[3 * i + c]? = some v →
        nibbleAt out (3 * (if i % 2 = 0 then i + 1 else i - 1) + c) = some (highNibble v))

/-- R71, R32: after PACK, window row `r` fills the 12 frame bytes from `12*(7-r)` on, its pixels from right to left (12 =
CELL_B / 2, 7 = CELL_PX - 1): the frame nibble of channel `c` of the pixel at row `r`, column `x`. -/
def Obligations.FrameRowsRightToLeft : Prop :=
  ∀ s : State, s.params.emitOrder = .reverse →
    let p := s.params
    ∃ t, exec .pack s = .next t ∧
      ∀ r x c, r < p.cellPx → x < p.cellPx → c < 3 →
        nibbleAt ((List.range p.frameB).map (t.byte .frame))
            (2 * (p.cellB / 2 * (p.cellPx - 1 - r)) + 3 * (p.cellPx - 1 - x) + c) =
          some (highNibble (s.byte .win (p.cellB * r + 3 * x + c)))

/-- R65: the words of PACK; PACK answers a next state in which FRAME is the packed window and OUT has it appended;
nothing else changes. -/
def Obligations.PackCompletes : Prop :=
  encode .pack = 0x01000000#32 ∧
  (∀ a imm, decode (wordOf ⟨0x01#8, a, imm⟩) =
    if a = 0#8 ∧ imm = 0#16 then .command .pack else .illegal .nonZeroField) ∧
  ∀ s : State, ∃ f t, pack s.params.emitOrder ((List.range s.params.winB).map (s.byte .win)) = .ok f ∧
    f.length = s.params.frameB ∧
    exec .pack s = .next t ∧ (∀ i, i < s.params.frameB → f[i]? = some (t.byte .frame i)) ∧
    t.out = s.out ++ [f] ∧ onlyBytesChange .frame 0 s.params.frameB s t

/-! ## The windower -/

/-- R76, R32: the window of one character, byte by byte. -/
def Obligations.CharacterWindowLayout : Prop :=
  ∀ (p : Params) (code : Int), (forChar p code).length = p.winB ∧
    ∀ r j, r < p.cellPx → j < p.cellB →
      (forChar p code)[p.cellB * r + j]? = p.rows[r]?.bind fun row => row[gidx p code + j]?

/-- R78, R84: the window of a string at a legal column, byte by byte, each character's fallback applied on its own. -/
def Obligations.StringWindowLayout : Prop :=
  ∀ (p : Params) (str : List Byte) (k : Nat), 1 ≤ str.length → k ≤ p.cellPx * (str.length - 1) →
    let shift := k % p.cellPx
    let visible0 := p.cellPx - shift
    ∃ code0 code1 x, str[k / p.cellPx]? = some code0 ∧ str[(k + (p.cellPx - 1)) / p.cellPx]? = some code1 ∧
      forString p str k = .ok x ∧ x.length = p.winB ∧
      ∀ r j, r < p.cellPx → j < p.cellB →
        x[p.cellB * r + j]? = p.rows[r]?.bind fun row =>
          if j < 3 * visible0 then row[gidx p code0.toNat + 3 * shift + j]?
          else row[gidx p code1.toNat + (j - 3 * visible0)]?

/-- R80: `for_string` refuses the empty string and every column outside `0 .. CELL_PX*(len-1)`, a negative one too, and
for every other column both string reads are inside the string. -/
def Obligations.StringWindowRange : Prop :=
  ∀ (p : Params) (str : List Byte) (k : Int),
    (str.length = 0 → forString p str k = .error .invalidInput) ∧
    (1 ≤ str.length → (k < 0 ∨ k > p.cellPx * ((str.length : Int) - 1)) →
      forString p str k = .error .invalidInput) ∧
    (1 ≤ str.length → 0 ≤ k → k ≤ p.cellPx * ((str.length : Int) - 1) →
      k / p.cellPx ≤ (str.length : Int) - 1 ∧ (k + (p.cellPx - 1)) / p.cellPx ≤ (str.length : Int) - 1 ∧
        ∃ x, forString p str k = .ok x)

/-- R81: the window is the CELL_PX = 8 pixel columns from `k` on of the virtual strip, and consecutive windows differ by
one pixel column. -/
def Obligations.WindowIsSliceOfStrip : Prop :=
  ∀ (p : Params) (str : List Byte) (k : Nat), 1 ≤ str.length → k ≤ p.cellPx * (str.length - 1) →
    (∃ x, forString p str k = .ok x ∧
      ∀ r, r < p.cellPx →
        (x.drop (p.cellB * r)).take p.cellB = ((strip p str r).drop (3 * k)).take p.cellB) ∧
    (k + 1 ≤ p.cellPx * (str.length - 1) →
      ∃ x y, forString p str k = .ok x ∧ forString p str ((k + 1 : Nat) : Int) = .ok y ∧
        ∀ r j, r < p.cellPx → j < 3 * (p.cellPx - 1) → x[p.cellB * r + 3 + j]? = y[p.cellB * r + j]?)

/-- R83: at a multiple of CELL_PX = 8 the window is the whole cell of one character; WSTR 8*i and WCHR STR[i] answer the
same state. -/
def Obligations.CharacterBoundary : Prop :=
  (∀ (p : Params) (str : List Byte) (i : Nat) (c : Byte), str[i]? = some c →
    forString p str ((p.cellPx * i : Nat) : Int) = .ok (forChar p c.toNat)) ∧
  (∀ (s : State) (i : Nat), s.stringFits → i < s.slen.toNat →
    exec (.wstr (BitVec.ofNat 16 (s.params.cellPx * i))) s = exec (.wchr (s.byte .str i)) s)

/-- R82: a window command issued again leaves the same state. -/
def Obligations.WindowCommandsIdempotent : Prop :=
  ∀ (s t : State) (i : Instr), ((∃ c, i = .wchr c) ∨ (∃ k, i = .wstr k) ∨ i = .wcur) →
    exec i s = .next t → exec i t = .next t

/-- R75: the words of WCHR; WCHR answers a next state in which WIN is the window of the character; nothing else changes,
and no string is needed. -/
def Obligations.WchrCompletes : Prop :=
  (∀ a imm, decode (wordOf ⟨0x02#8, a, imm⟩) =
    if imm = 0#16 then .command (.wchr a) else .illegal .nonZeroField) ∧
  ∀ (s : State) (code : Byte),
    encode (.wchr code) = 0x02000000#32 ||| (code.setWidth 32 <<< 16) ∧
    ∃ t, exec (.wchr code) s = .next t ∧
      (∀ i, i < s.params.winB → (forChar s.params code.toNat)[i]? = some (t.byte .win i)) ∧
      t.out = s.out ∧ onlyBytesChange .win 0 s.params.winB s t

/-- R77: the words of WSTR; WSTR answers a next state: the window of the string at its column, nothing else changed; or,
on an empty string or a column past the last character, the fault, WIN kept. -/
def Obligations.WstrCompletes : Prop :=
  (∀ a imm, decode (wordOf ⟨0x03#8, a, imm⟩) =
    if a = 0#8 then .command (.wstr imm) else .illegal .nonZeroField) ∧
  ∀ (s : State) (k : Half), s.stringFits →
    encode (.wstr k) = 0x03000000#32 ||| k.setWidth 32 ∧
    ∃ t, exec (.wstr k) s = .next t ∧
      if s.slen.toNat = 0 ∨ s.params.cellPx * (s.slen.toNat - 1) < k.toNat then
        faultEntry .invalidInput (encode (.wstr k)) s t
      else
        (∃ x, forString s.params s.characters k.toNat = .ok x ∧
          ∀ i, i < s.params.winB → x[i]? = some (t.byte .win i)) ∧
        t.out = s.out ∧ onlyBytesChange .win 0 s.params.winB s t

/-- R79: the words of WCUR; WCUR is WSTR with `k = TICKER`: it answers the window at the cursor and does not advance the
cursor; its own fault on its own conditions, which an executed TICK or an RTIK on a non-empty string rules out for the
WCUR after it. -/
def Obligations.WcurCompletes : Prop :=
  encode .wcur = 0x04000000#32 ∧
  (∀ a imm, decode (wordOf ⟨0x04#8, a, imm⟩) =
    if a = 0#8 ∧ imm = 0#16 then .command .wcur else .illegal .nonZeroField) ∧
  (∀ s : State, s.stringFits →
    ∃ t, exec .wcur s = .next t ∧
      if s.slen.toNat = 0 ∨ s.params.cellPx * (s.slen.toNat - 1) < s.ticker.toNat then
        faultEntry .invalidInput (encode .wcur) s t
      else
        (∃ x, forString s.params s.characters s.ticker.toNat = .ok x ∧
          ∀ i, i < s.params.winB → x[i]? = some (t.byte .win i)) ∧
        t.out = s.out ∧ onlyBytesChange .win 0 s.params.winB s t ∧ exec (.wstr s.ticker) s = .next t) ∧
  (∀ s t : State, s.stringFits → s.slen.toNat ≠ 0 → exec .tick s = .next t ∨ exec .rtik s = .next t →
    ∃ u, exec .wcur t = .next u ∧ sameFault t u)

/-- R102: a window depends on no entry of STR at or beyond SLEN. -/
def Obligations.EntriesBeyondLengthNotRead : Prop :=
  ∀ (s t : State) (m : Memory) (i : Instr), ((∃ k, i = .wstr k) ∨ i = .wcur) →
    (∀ a, a < s.slen.toNat → ({ s with str := m } : State).byte .str a = s.byte .str a) →
    exec i s = .next t → exec i { s with str := m } = .next { t with str := m }

/-! ## The scroll cursor -/

/-- R90 (with R91): the words of TICK; TICK on a non-empty string, with the transition written out; on an empty one, the
fault. -/
def Obligations.TickCompletes : Prop :=
  encode .tick = 0x05000000#32 ∧
  (∀ a imm, decode (wordOf ⟨0x05#8, a, imm⟩) =
    if a = 0#8 ∧ imm = 0#16 then .command .tick else .illegal .nonZeroField) ∧
  ∀ s : State, s.stringFits →
    ∃ t, exec .tick s = .next t ∧
      if s.slen.toNat = 0 then faultEntry .invalidInput (encode .tick) s t
      else
        (let bound : Int := ((s.slen.toNat : Int) - 1) * s.params.cellPx
         let u : Int := s.ticker.toNat + s.delta
         (t.ticker.toNat : Int) = (if u ≥ bound then bound else if u ≤ 0 then 0 else u) ∧
         t.delta = (if u ≥ bound then -1 else if u ≤ 0 then 1 else s.delta)) ∧
        t.slen = s.slen ∧ sameFault s t ∧ onlyRegistersChange s t

/-- R92: the words of RTIK; RTIK forces the cursor to (0, +1), needs no string, cannot fault and changes nothing else. -/
def Obligations.RtikCompletes : Prop :=
  encode .rtik = 0x06000000#32 ∧
  (∀ a imm, decode (wordOf ⟨0x06#8, a, imm⟩) =
    if a = 0#8 ∧ imm = 0#16 then .command .rtik else .illegal .nonZeroField) ∧
  ∀ s : State, ∃ t, exec .rtik s = .next t ∧ t.ticker = 0#16 ∧ t.delta = 1 ∧ t.dir = 0#1 ∧
    t.slen = s.slen ∧ sameFault s t ∧ onlyRegistersChange s t

/-- R94: the bounce property: the position stays in range, the direction flips only at the two boundaries, the positions
of a whole run of ticks and their period; and the range after every completed TICK and RTIK. -/
def Obligations.BounceProperty : Prop :=
  (∀ (p : Params) (t d n : Int), 0 ≤ t → (d = 1 ∨ d = -1) → 1 ≤ n →
    0 ≤ (tickNext p t d n).1 ∧ (tickNext p t d n).1 ≤ (n - 1) * p.cellPx ∧
    ((tickNext p t d n).2 ≠ d →
      d = 1 ∧ (tickNext p t d n).1 = (n - 1) * p.cellPx ∨ d = -1 ∧ (tickNext p t d n).1 = 0)) ∧
  (∀ (p : Params) (n m : Nat), 2 ≤ n →
    let bound := p.cellPx * (n - 1)
    let q := m % (2 * bound)
    ticks p n m (0, 1) = if q < bound then ((q : Int), 1) else (((2 * bound - q : Nat) : Int), -1)) ∧
  (∀ s t : State, s.stringFits → s.slen.toNat ≠ 0 → exec .tick s = .next t ∨ exec .rtik s = .next t →
    t.ticker.toNat ≤ t.params.cellPx * (t.slen.toNat - 1))

/-- R96: on a one-character string TICKER stays 0 and DELTA alternates on every tick. -/
def Obligations.OneCharacterTicks : Prop :=
  ∀ (p : Params) (m : Nat), ticks p 1 m (0, 1) = (0, if m % 2 = 0 then 1 else -1)

/-- R97: a cursor above the bound is clamped by TICK without a fault, whatever DELTA was; WCUR faults on it. -/
def Obligations.CursorAboveBound : Prop :=
  ∀ s : State, s.stringFits → s.slen.toNat ≠ 0 → s.params.cellPx * (s.slen.toNat - 1) < s.ticker.toNat →
    (∃ t, exec .tick s = .next t ∧ t.ticker.toNat = s.params.cellPx * (s.slen.toNat - 1) ∧ t.delta = -1 ∧
      sameFault s t) ∧
    (∃ u, exec .wcur s = .next u ∧ faultEntry .invalidInput (encode .wcur) s u)

/-- R125: after SLEN has lowered the bound beneath the cursor, WCUR faults; with one TICK or an RTIK between it does
not. -/
def Obligations.ShortenedStringHazard : Prop :=
  ∀ (s t : State) (n : Half), 1 ≤ n.toNat → n.toNat ≤ s.params.strMax →
    s.params.cellPx * (n.toNat - 1) < s.ticker.toNat →
    exec (.slen n) s = .next t →
    (∃ u, exec .wcur t = .next u ∧ faultEntry .invalidInput (encode .wcur) t u) ∧
    (∃ u v, exec .tick t = .next u ∧ exec .wcur u = .next v ∧ sameFault t v) ∧
    (∃ u v, exec .rtik t = .next u ∧ exec .wcur u = .next v ∧ sameFault t v)

/-- R15: no command but TICK and RTIK writes DELTA, and no command but TICK reads it: from states that differ in DELTA
alone, every other command answers states that differ in DELTA at most. -/
def Obligations.DirectionReadByTickOnly : Prop :=
  ∀ (s t : State) (i : Instr) (d : Int), i ≠ .tick → exec i s = .next t →
    (i ≠ .rtik → t.dir = s.dir) ∧
    ∃ t', exec i (s.setDelta d) = .next t' ∧ t'.setDelta 1 = t.setDelta 1

/-! ## Loading the string -/

/-- R100: the words of SLEN; SLEN writes the length register and nothing else, or faults above STR_MAX = 256. -/
def Obligations.SlenCompletes : Prop :=
  (∀ a imm, decode (wordOf ⟨0x07#8, a, imm⟩) =
    if a = 0#8 then .command (.slen imm) else .illegal .nonZeroField) ∧
  ∀ (s : State) (n : Half),
    encode (.slen n) = 0x07000000#32 ||| n.setWidth 32 ∧
    ∃ t, exec (.slen n) s = .next t ∧
      if s.params.strMax < n.toNat then faultEntry .invalidInput (encode (.slen n)) s t
      else t.slen = n ∧ sameCursor s t ∧ sameFault s t ∧ onlyRegistersChange s t

/-- R101: the words of SCHR, none of them illegal; SCHR writes one byte of STR and nothing else, or faults at an index
of STR_MAX = 256 or more. -/
def Obligations.SchrCompletes : Prop :=
  (∀ a imm, decode (wordOf ⟨0x08#8, a, imm⟩) = .command (.schr imm a)) ∧
  ∀ (s : State) (idx : Half) (code : Byte),
    encode (.schr idx code) = 0x08000000#32 ||| (code.setWidth 32 <<< 16) ||| idx.setWidth 32 ∧
    ∃ t, exec (.schr idx code) s = .next t ∧
      if s.params.strMax ≤ idx.toNat then faultEntry .invalidInput (encode (.schr idx code)) s t
      else t.byte .str idx.toNat = code ∧ t.out = s.out ∧ onlyBytesChange .str idx.toNat 1 s t

/-- R103: neither SLEN nor SCHR reads or writes TICKER or DELTA. -/
def Obligations.LoadingKeepsCursor : Prop :=
  ∀ (s : State) (i : Instr) (p d : Int), ((∃ n, i = .slen n) ∨ ∃ idx c, i = .schr idx c) →
    ∃ t, exec i s = .next t ∧ sameCursor s t ∧
      exec i ((s.setTicker p).setDelta d) = .next ((t.setTicker p).setDelta d)

/-! ## The access table -/

/-- R22: what each command may write: everything the table marks untouched is unchanged whenever exec answers a next
state, completed or faulted. -/
def Obligations.AccessTableWrites : Prop :=
  ∀ (s t : State) (i : Instr), exec i s = .next t →
    sameParameters s t ∧ sameHostSide s t ∧
    (sameFault s t ∨ i ≠ .pack ∧ (∀ c, i ≠ .wchr c) ∧ i ≠ .rtik) ∧
    ((∀ n, i ≠ .slen n) → t.slen = s.slen) ∧
    (i ≠ .tick → i ≠ .rtik → sameCursor s t) ∧
    ((∀ idx c, i ≠ .schr idx c) → sameBytes .str s t) ∧
    (i ≠ .pack → sameBytes .frame s t ∧ t.out = s.out) ∧
    ((∀ c, i ≠ .wchr c) → (∀ k, i ≠ .wstr k) → i ≠ .wcur → sameBytes .win s t)
end

