-- ==== Sys2Proof/Laws/Encoding.lean ====
section
/-! SUPPORT. The fields of a word as numbers, and that the fields of a word and the word of its fields are inverse to each
other (30_encoding.md R46). -/

namespace Sys2Proof

theorem fieldsOf_op (w : Word) : (fieldsOf w).op.toNat = w.toNat / 2 ^ 24 := by
  have := w.isLt
  simp only [fieldsOf, BitVec.extractLsb'_toNat, Nat.shiftRight_eq_div_pow]
  omega

theorem fieldsOf_a (w : Word) : (fieldsOf w).a.toNat = w.toNat / 2 ^ 16 % 256 := by
  simp only [fieldsOf, BitVec.extractLsb'_toNat, Nat.shiftRight_eq_div_pow]

theorem fieldsOf_imm (w : Word) : (fieldsOf w).imm.toNat = w.toNat % 65536 := by
  simp only [fieldsOf, BitVec.extractLsb'_toNat, Nat.shiftRight_eq_div_pow]
  omega

theorem wordOf_toNat (f : Fields) :
    (wordOf f).toNat = f.op.toNat * 2 ^ 24 + f.a.toNat * 2 ^ 16 + f.imm.toNat := by
  have h₁ := f.a.isLt
  have h₂ := f.imm.isLt
  rw [wordOf, BitVec.toNat_append, BitVec.toNat_append,
    ← Nat.shiftLeft_add_eq_or_of_lt h₂, ← Nat.shiftLeft_add_eq_or_of_lt h₁]
  simp only [Nat.shiftLeft_eq]
  omega

theorem Fields.ext_toNat {f g : Fields} (h₁ : f.op.toNat = g.op.toNat) (h₂ : f.a.toNat = g.a.toNat)
    (h₃ : f.imm.toNat = g.imm.toNat) : f = g := by
  cases f; cases g
  simp only [Fields.mk.injEq]
  exact ⟨BitVec.eq_of_toNat_eq h₁, BitVec.eq_of_toNat_eq h₂, BitVec.eq_of_toNat_eq h₃⟩

@[simp] theorem fieldsOf_wordOf (f : Fields) : fieldsOf (wordOf f) = f := by
  have h₀ := f.op.isLt
  have h₁ := f.a.isLt
  have h₂ := f.imm.isLt
  apply Fields.ext_toNat
  · rw [fieldsOf_op, wordOf_toNat]; omega
  · rw [fieldsOf_a, wordOf_toNat]; omega
  · rw [fieldsOf_imm, wordOf_toNat]; omega

@[simp] theorem wordOf_fieldsOf (w : Word) : wordOf (fieldsOf w) = w := by
  have := w.isLt
  apply BitVec.eq_of_toNat_eq
  rw [wordOf_toNat, fieldsOf_op, fieldsOf_a, fieldsOf_imm]
  omega

end Sys2Proof
end

