-- ==== Sys2Proof/Laws/State.lean ====
section
/-! SUPPORT. One lemma per field per named update of the state, true by unfolding the update once; no later proof unfolds a
record update. -/

namespace Sys2Proof.Machine

variable (s : State)

@[simp] theorem setDelta_ticker (d : Int) : (s.setDelta d).ticker = s.ticker := rfl
@[simp] theorem setDelta_dir (d : Int) : (s.setDelta d).dir = dirOf d := rfl
@[simp] theorem setDelta_slen (d : Int) : (s.setDelta d).slen = s.slen := rfl
@[simp] theorem setDelta_status (d : Int) : (s.setDelta d).status = s.status := rfl
@[simp] theorem setDelta_fcmd (d : Int) : (s.setDelta d).fcmd = s.fcmd := rfl
@[simp] theorem setDelta_str (d : Int) : (s.setDelta d).str = s.str := rfl
@[simp] theorem setDelta_win (d : Int) : (s.setDelta d).win = s.win := rfl
@[simp] theorem setDelta_frame (d : Int) : (s.setDelta d).frame = s.frame := rfl
@[simp] theorem setDelta_out (d : Int) : (s.setDelta d).out = s.out := rfl
@[simp] theorem setDelta_ci (d : Int) : (s.setDelta d).ci = s.ci := rfl
@[simp] theorem setDelta_params (d : Int) : (s.setDelta d).params = s.params := rfl
@[simp] theorem setDelta_epoch (d : Int) : (s.setDelta d).epoch = s.epoch := rfl
@[simp] theorem setDelta_pending (d : Int) : (s.setDelta d).pending = s.pending := rfl
@[simp] theorem setDelta_replies (d : Int) : (s.setDelta d).replies = s.replies := rfl

@[simp] theorem emit_ticker (f : List Byte) : (s.emit f).ticker = s.ticker := rfl
@[simp] theorem emit_dir (f : List Byte) : (s.emit f).dir = s.dir := rfl
@[simp] theorem emit_slen (f : List Byte) : (s.emit f).slen = s.slen := rfl
@[simp] theorem emit_status (f : List Byte) : (s.emit f).status = s.status := rfl
@[simp] theorem emit_fcmd (f : List Byte) : (s.emit f).fcmd = s.fcmd := rfl
@[simp] theorem emit_str (f : List Byte) : (s.emit f).str = s.str := rfl
@[simp] theorem emit_win (f : List Byte) : (s.emit f).win = s.win := rfl
@[simp] theorem emit_frame (f : List Byte) : (s.emit f).frame = s.frame := rfl
@[simp] theorem emit_out (f : List Byte) : (s.emit f).out = s.out ++ [f] := rfl
@[simp] theorem emit_ci (f : List Byte) : (s.emit f).ci = s.ci := rfl
@[simp] theorem emit_params (f : List Byte) : (s.emit f).params = s.params := rfl
@[simp] theorem emit_epoch (f : List Byte) : (s.emit f).epoch = s.epoch := rfl
@[simp] theorem emit_pending (f : List Byte) : (s.emit f).pending = s.pending := rfl
@[simp] theorem emit_replies (f : List Byte) : (s.emit f).replies = s.replies := rfl

@[simp] theorem setTicker_ticker (t : Int) : (s.setTicker t).ticker = BitVec.ofInt 16 t := rfl
@[simp] theorem setTicker_dir (t : Int) : (s.setTicker t).dir = s.dir := rfl
@[simp] theorem setTicker_slen (t : Int) : (s.setTicker t).slen = s.slen := rfl
@[simp] theorem setTicker_status (t : Int) : (s.setTicker t).status = s.status := rfl
@[simp] theorem setTicker_fcmd (t : Int) : (s.setTicker t).fcmd = s.fcmd := rfl
@[simp] theorem setTicker_str (t : Int) : (s.setTicker t).str = s.str := rfl
@[simp] theorem setTicker_win (t : Int) : (s.setTicker t).win = s.win := rfl
@[simp] theorem setTicker_frame (t : Int) : (s.setTicker t).frame = s.frame := rfl
@[simp] theorem setTicker_out (t : Int) : (s.setTicker t).out = s.out := rfl
@[simp] theorem setTicker_ci (t : Int) : (s.setTicker t).ci = s.ci := rfl
@[simp] theorem setTicker_params (t : Int) : (s.setTicker t).params = s.params := rfl
@[simp] theorem setTicker_epoch (t : Int) : (s.setTicker t).epoch = s.epoch := rfl
@[simp] theorem setTicker_pending (t : Int) : (s.setTicker t).pending = s.pending := rfl
@[simp] theorem setTicker_replies (t : Int) : (s.setTicker t).replies = s.replies := rfl

@[simp] theorem setSlen_ticker (n : Half) : (s.setSlen n).ticker = s.ticker := rfl
@[simp] theorem setSlen_dir (n : Half) : (s.setSlen n).dir = s.dir := rfl
@[simp] theorem setSlen_slen (n : Half) : (s.setSlen n).slen = n := rfl
@[simp] theorem setSlen_status (n : Half) : (s.setSlen n).status = s.status := rfl
@[simp] theorem setSlen_fcmd (n : Half) : (s.setSlen n).fcmd = s.fcmd := rfl
@[simp] theorem setSlen_str (n : Half) : (s.setSlen n).str = s.str := rfl
@[simp] theorem setSlen_win (n : Half) : (s.setSlen n).win = s.win := rfl
@[simp] theorem setSlen_frame (n : Half) : (s.setSlen n).frame = s.frame := rfl
@[simp] theorem setSlen_out (n : Half) : (s.setSlen n).out = s.out := rfl
@[simp] theorem setSlen_ci (n : Half) : (s.setSlen n).ci = s.ci := rfl
@[simp] theorem setSlen_params (n : Half) : (s.setSlen n).params = s.params := rfl
@[simp] theorem setSlen_epoch (n : Half) : (s.setSlen n).epoch = s.epoch := rfl
@[simp] theorem setSlen_pending (n : Half) : (s.setSlen n).pending = s.pending := rfl
@[simp] theorem setSlen_replies (n : Half) : (s.setSlen n).replies = s.replies := rfl

@[simp] theorem raise_ticker (c : Cause) (w : Word) : (s.raise c w).ticker = s.ticker := rfl
@[simp] theorem raise_dir (c : Cause) (w : Word) : (s.raise c w).dir = s.dir := rfl
@[simp] theorem raise_slen (c : Cause) (w : Word) : (s.raise c w).slen = s.slen := rfl
@[simp] theorem raise_status (c : Cause) (w : Word) : (s.raise c w).status = faultStatus c := rfl
@[simp] theorem raise_fcmd (c : Cause) (w : Word) : (s.raise c w).fcmd = w := rfl
@[simp] theorem raise_str (c : Cause) (w : Word) : (s.raise c w).str = s.str := rfl
@[simp] theorem raise_win (c : Cause) (w : Word) : (s.raise c w).win = s.win := rfl
@[simp] theorem raise_frame (c : Cause) (w : Word) : (s.raise c w).frame = s.frame := rfl
@[simp] theorem raise_out (c : Cause) (w : Word) : (s.raise c w).out = s.out := rfl
@[simp] theorem raise_ci (c : Cause) (w : Word) : (s.raise c w).ci = s.ci := rfl
@[simp] theorem raise_params (c : Cause) (w : Word) : (s.raise c w).params = s.params := rfl
@[simp] theorem raise_epoch (c : Cause) (w : Word) : (s.raise c w).epoch = s.epoch := rfl
@[simp] theorem raise_pending (c : Cause) (w : Word) : (s.raise c w).pending = s.pending := rfl
@[simp] theorem raise_replies (c : Cause) (w : Word) : (s.raise c w).replies = s.replies := rfl

@[simp] theorem advance_ticker : (s.advance).ticker = s.ticker := rfl
@[simp] theorem advance_dir : (s.advance).dir = s.dir := rfl
@[simp] theorem advance_slen : (s.advance).slen = s.slen := rfl
@[simp] theorem advance_status : (s.advance).status = s.status := rfl
@[simp] theorem advance_fcmd : (s.advance).fcmd = s.fcmd := rfl
@[simp] theorem advance_str : (s.advance).str = s.str := rfl
@[simp] theorem advance_win : (s.advance).win = s.win := rfl
@[simp] theorem advance_frame : (s.advance).frame = s.frame := rfl
@[simp] theorem advance_out : (s.advance).out = s.out := rfl
@[simp] theorem advance_ci : (s.advance).ci = s.ci + 1 := rfl
@[simp] theorem advance_params : (s.advance).params = s.params := rfl
@[simp] theorem advance_epoch : (s.advance).epoch = s.epoch := rfl
@[simp] theorem advance_pending : (s.advance).pending = s.pending := rfl
@[simp] theorem advance_replies : (s.advance).replies = s.replies := rfl

@[simp] theorem setPending_ticker (p : List HostTxn) : (s.setPending p).ticker = s.ticker := rfl
@[simp] theorem setPending_dir (p : List HostTxn) : (s.setPending p).dir = s.dir := rfl
@[simp] theorem setPending_slen (p : List HostTxn) : (s.setPending p).slen = s.slen := rfl
@[simp] theorem setPending_status (p : List HostTxn) : (s.setPending p).status = s.status := rfl
@[simp] theorem setPending_fcmd (p : List HostTxn) : (s.setPending p).fcmd = s.fcmd := rfl
@[simp] theorem setPending_str (p : List HostTxn) : (s.setPending p).str = s.str := rfl
@[simp] theorem setPending_win (p : List HostTxn) : (s.setPending p).win = s.win := rfl
@[simp] theorem setPending_frame (p : List HostTxn) : (s.setPending p).frame = s.frame := rfl
@[simp] theorem setPending_out (p : List HostTxn) : (s.setPending p).out = s.out := rfl
@[simp] theorem setPending_ci (p : List HostTxn) : (s.setPending p).ci = s.ci := rfl
@[simp] theorem setPending_params (p : List HostTxn) : (s.setPending p).params = s.params := rfl
@[simp] theorem setPending_epoch (p : List HostTxn) : (s.setPending p).epoch = s.epoch := rfl
@[simp] theorem setPending_pending (p : List HostTxn) : (s.setPending p).pending = p := rfl
@[simp] theorem setPending_replies (p : List HostTxn) : (s.setPending p).replies = s.replies := rfl

@[simp] theorem answer_ticker (r : Reply) : (s.answer r).ticker = s.ticker := rfl
@[simp] theorem answer_dir (r : Reply) : (s.answer r).dir = s.dir := rfl
@[simp] theorem answer_slen (r : Reply) : (s.answer r).slen = s.slen := rfl
@[simp] theorem answer_status (r : Reply) : (s.answer r).status = s.status := rfl
@[simp] theorem answer_fcmd (r : Reply) : (s.answer r).fcmd = s.fcmd := rfl
@[simp] theorem answer_str (r : Reply) : (s.answer r).str = s.str := rfl
@[simp] theorem answer_win (r : Reply) : (s.answer r).win = s.win := rfl
@[simp] theorem answer_frame (r : Reply) : (s.answer r).frame = s.frame := rfl
@[simp] theorem answer_out (r : Reply) : (s.answer r).out = s.out := rfl
@[simp] theorem answer_ci (r : Reply) : (s.answer r).ci = s.ci := rfl
@[simp] theorem answer_params (r : Reply) : (s.answer r).params = s.params := rfl
@[simp] theorem answer_epoch (r : Reply) : (s.answer r).epoch = s.epoch := rfl
@[simp] theorem answer_pending (r : Reply) : (s.answer r).pending = s.pending := rfl
@[simp] theorem answer_replies (r : Reply) : (s.answer r).replies = s.replies ++ [r] := rfl

@[simp] theorem blockReset_ticker : (s.blockReset).ticker = 0#16 := rfl
@[simp] theorem blockReset_dir : (s.blockReset).dir = 0#1 := rfl
@[simp] theorem blockReset_slen : (s.blockReset).slen = 0#16 := rfl
@[simp] theorem blockReset_status : (s.blockReset).status = 0#8 := rfl
@[simp] theorem blockReset_fcmd : (s.blockReset).fcmd = 0#32 := rfl
@[simp] theorem blockReset_str : (s.blockReset).str = [] := rfl
@[simp] theorem blockReset_win : (s.blockReset).win = [] := rfl
@[simp] theorem blockReset_frame : (s.blockReset).frame = [] := rfl
@[simp] theorem blockReset_out : (s.blockReset).out = [] := rfl
@[simp] theorem blockReset_ci : (s.blockReset).ci = 0 := rfl
@[simp] theorem blockReset_params : (s.blockReset).params = s.params := rfl
@[simp] theorem blockReset_epoch : (s.blockReset).epoch = s.epoch + 1 := rfl
@[simp] theorem blockReset_pending : (s.blockReset).pending = s.pending := rfl
@[simp] theorem blockReset_replies : (s.blockReset).replies = s.replies := rfl

@[simp] theorem memWrite_str_ticker (i : Nat) (v : List Byte) : (s.memWrite .str i v).ticker = s.ticker := rfl
@[simp] theorem memWrite_str_dir (i : Nat) (v : List Byte) : (s.memWrite .str i v).dir = s.dir := rfl
@[simp] theorem memWrite_str_slen (i : Nat) (v : List Byte) : (s.memWrite .str i v).slen = s.slen := rfl
@[simp] theorem memWrite_str_status (i : Nat) (v : List Byte) : (s.memWrite .str i v).status = s.status := rfl
@[simp] theorem memWrite_str_fcmd (i : Nat) (v : List Byte) : (s.memWrite .str i v).fcmd = s.fcmd := rfl
@[simp] theorem memWrite_str_str (i : Nat) (v : List Byte) : (s.memWrite .str i v).str = Memory.splice i v s.str := rfl
@[simp] theorem memWrite_str_win (i : Nat) (v : List Byte) : (s.memWrite .str i v).win = s.win := rfl
@[simp] theorem memWrite_str_frame (i : Nat) (v : List Byte) : (s.memWrite .str i v).frame = s.frame := rfl
@[simp] theorem memWrite_str_out (i : Nat) (v : List Byte) : (s.memWrite .str i v).out = s.out := rfl
@[simp] theorem memWrite_str_ci (i : Nat) (v : List Byte) : (s.memWrite .str i v).ci = s.ci := rfl
@[simp] theorem memWrite_str_params (i : Nat) (v : List Byte) : (s.memWrite .str i v).params = s.params := rfl
@[simp] theorem memWrite_str_epoch (i : Nat) (v : List Byte) : (s.memWrite .str i v).epoch = s.epoch := rfl
@[simp] theorem memWrite_str_pending (i : Nat) (v : List Byte) : (s.memWrite .str i v).pending = s.pending := rfl
@[simp] theorem memWrite_str_replies (i : Nat) (v : List Byte) : (s.memWrite .str i v).replies = s.replies := rfl

@[simp] theorem memWrite_win_ticker (i : Nat) (v : List Byte) : (s.memWrite .win i v).ticker = s.ticker := rfl
@[simp] theorem memWrite_win_dir (i : Nat) (v : List Byte) : (s.memWrite .win i v).dir = s.dir := rfl
@[simp] theorem memWrite_win_slen (i : Nat) (v : List Byte) : (s.memWrite .win i v).slen = s.slen := rfl
@[simp] theorem memWrite_win_status (i : Nat) (v : List Byte) : (s.memWrite .win i v).status = s.status := rfl
@[simp] theorem memWrite_win_fcmd (i : Nat) (v : List Byte) : (s.memWrite .win i v).fcmd = s.fcmd := rfl
@[simp] theorem memWrite_win_str (i : Nat) (v : List Byte) : (s.memWrite .win i v).str = s.str := rfl
@[simp] theorem memWrite_win_win (i : Nat) (v : List Byte) : (s.memWrite .win i v).win = Memory.splice i v s.win := rfl
@[simp] theorem memWrite_win_frame (i : Nat) (v : List Byte) : (s.memWrite .win i v).frame = s.frame := rfl
@[simp] theorem memWrite_win_out (i : Nat) (v : List Byte) : (s.memWrite .win i v).out = s.out := rfl
@[simp] theorem memWrite_win_ci (i : Nat) (v : List Byte) : (s.memWrite .win i v).ci = s.ci := rfl
@[simp] theorem memWrite_win_params (i : Nat) (v : List Byte) : (s.memWrite .win i v).params = s.params := rfl
@[simp] theorem memWrite_win_epoch (i : Nat) (v : List Byte) : (s.memWrite .win i v).epoch = s.epoch := rfl
@[simp] theorem memWrite_win_pending (i : Nat) (v : List Byte) : (s.memWrite .win i v).pending = s.pending := rfl
@[simp] theorem memWrite_win_replies (i : Nat) (v : List Byte) : (s.memWrite .win i v).replies = s.replies := rfl

@[simp] theorem memWrite_frame_ticker (i : Nat) (v : List Byte) : (s.memWrite .frame i v).ticker = s.ticker := rfl
@[simp] theorem memWrite_frame_dir (i : Nat) (v : List Byte) : (s.memWrite .frame i v).dir = s.dir := rfl
@[simp] theorem memWrite_frame_slen (i : Nat) (v : List Byte) : (s.memWrite .frame i v).slen = s.slen := rfl
@[simp] theorem memWrite_frame_status (i : Nat) (v : List Byte) : (s.memWrite .frame i v).status = s.status := rfl
@[simp] theorem memWrite_frame_fcmd (i : Nat) (v : List Byte) : (s.memWrite .frame i v).fcmd = s.fcmd := rfl
@[simp] theorem memWrite_frame_str (i : Nat) (v : List Byte) : (s.memWrite .frame i v).str = s.str := rfl
@[simp] theorem memWrite_frame_win (i : Nat) (v : List Byte) : (s.memWrite .frame i v).win = s.win := rfl
@[simp] theorem memWrite_frame_frame (i : Nat) (v : List Byte) : (s.memWrite .frame i v).frame = Memory.splice i v s.frame := rfl
@[simp] theorem memWrite_frame_out (i : Nat) (v : List Byte) : (s.memWrite .frame i v).out = s.out := rfl
@[simp] theorem memWrite_frame_ci (i : Nat) (v : List Byte) : (s.memWrite .frame i v).ci = s.ci := rfl
@[simp] theorem memWrite_frame_params (i : Nat) (v : List Byte) : (s.memWrite .frame i v).params = s.params := rfl
@[simp] theorem memWrite_frame_epoch (i : Nat) (v : List Byte) : (s.memWrite .frame i v).epoch = s.epoch := rfl
@[simp] theorem memWrite_frame_pending (i : Nat) (v : List Byte) : (s.memWrite .frame i v).pending = s.pending := rfl
@[simp] theorem memWrite_frame_replies (i : Nat) (v : List Byte) : (s.memWrite .frame i v).replies = s.replies := rfl

end Sys2Proof.Machine
end

