-- ==== Sys2Proof/Laws/Memory.lean ====
section
/-! SUPPORT. The laws of the buffers' contents: what a write changes, that it keeps the canonical form, that writing the
same bytes again changes nothing. -/

namespace Sys2Proof.Machine

/-- The indices of `cells i v` are `i`, `i+1`, ... -/
theorem cells_mem_range {v : List Byte} {i : Nat} {c : Host.Cell} (h : c ∈ Memory.cells i v) :
    i ≤ c.1 ∧ c.1 < i + v.length := by
  induction v generalizing i with
  | nil => simp [Memory.cells] at h
  | cons b v ih =>
    rw [Memory.cells, List.mem_cons] at h
    obtain rfl | h := h
    · simp
    · have := ih h
      simp only [List.length_cons]
      omega

theorem find_cells (v : List Byte) (i a : Nat) :
    Memory.find (Memory.cells i v) a = if i ≤ a then v[a - i]? else none := by
  induction v generalizing i with
  | nil => simp [Memory.cells, Memory.find]
  | cons b v ih =>
    simp only [Memory.cells, Memory.find, ih]
    rcases Nat.lt_trichotomy i a with h | h | h
    · have : a - i = (a - (i + 1)) + 1 := by omega
      simp [Nat.ne_of_lt h, Nat.le_of_lt h, Nat.succ_le_of_lt h, this]
    · simp [h]
    · simp [Nat.ne_of_gt h, show ¬ i ≤ a by omega, show ¬ i + 1 ≤ a by omega]

theorem find_append (m₁ m₂ : Memory) (a : Nat) :
    Memory.find (m₁ ++ m₂) a = (Memory.find m₁ a).or (Memory.find m₂ a) := by
  induction m₁ with
  | nil => simp [Memory.find]
  | cons c m ih => simp only [List.cons_append, Memory.find, ih]; split <;> simp

theorem find_filter (p : Nat → Bool) (m : Memory) (a : Nat) :
    Memory.find (m.filter fun c => p c.1) a = if p a then Memory.find m a else none := by
  induction m with
  | nil => simp [Memory.find]
  | cons c m ih =>
    simp only [List.filter_cons, Memory.find]
    by_cases hc : c.1 = a
    · cases hp : p a <;> simp [hc, hp, Memory.find, ih]
    · cases hp : p c.1 <;> simp [hc, Memory.find, ih]

/-- What a write changes: the indices `i ..< i + len(v)` hold `v`, every other index holds what it held. -/
theorem find_splice (i : Nat) (v : List Byte) (m : Memory) (a : Nat) :
    Memory.find (Memory.splice i v m) a =
      if i ≤ a ∧ a < i + v.length then v[a - i]? else Memory.find m a := by
  have h₁ := find_filter (fun x => decide (x < i)) m a
  have h₂ := find_filter (fun x => decide (i + v.length ≤ x)) m a
  simp only [Memory.splice, find_append, find_cells]
  rw [h₁, h₂]
  by_cases hlo : i ≤ a
  · by_cases hhi : a < i + v.length
    · have : a - i < v.length := by omega
      simp [hlo, hhi, show ¬ a < i by omega, this]
    · have : v.length ≤ a - i := by omega
      simp [hlo, hhi, show ¬ a < i by omega, this, show i + v.length ≤ a by omega]
  · simp [hlo, show a < i by omega, show ¬ i + v.length ≤ a by omega]

theorem rising_append {m₁ m₂ : Memory} {lo mid : Nat} (h₁ : Memory.rising lo m₁ = true)
    (hb : ∀ c ∈ m₁, c.1 < mid) (hlo : lo ≤ mid) (h₂ : Memory.rising mid m₂ = true) :
    Memory.rising lo (m₁ ++ m₂) = true := by
  induction m₁ generalizing lo with
  | nil =>
    cases m₂ with
    | nil => rfl
    | cons c m =>
      simp only [List.nil_append, Memory.rising, Bool.and_eq_true, decide_eq_true_eq] at h₂ ⊢
      exact ⟨by omega, h₂.2⟩
  | cons c m ih =>
    simp only [List.cons_append, Memory.rising, Bool.and_eq_true, decide_eq_true_eq] at h₁ ⊢
    have := hb c (by simp)
    exact ⟨h₁.1, ih h₁.2 (fun d hd => hb d (by simp [hd])) (by omega)⟩

theorem rising_weaken {m : Memory} {lo lo' : Nat} (h : Memory.rising lo m = true) (hle : lo' ≤ lo) :
    Memory.rising lo' m = true := by
  cases m with
  | nil => rfl
  | cons c m =>
    simp only [Memory.rising, Bool.and_eq_true, decide_eq_true_eq] at h ⊢
    exact ⟨by omega, h.2⟩

theorem rising_filter {m : Memory} {lo : Nat} (p : Host.Cell → Bool) (h : Memory.rising lo m = true) :
    Memory.rising lo (m.filter p) = true := by
  induction m generalizing lo with
  | nil => rfl
  | cons c m ih =>
    simp only [Memory.rising, Bool.and_eq_true, decide_eq_true_eq] at h
    rw [List.filter_cons]
    split
    · simp only [Memory.rising, Bool.and_eq_true, decide_eq_true_eq]
      exact ⟨h.1, ih h.2⟩
    · exact rising_weaken (ih h.2) (by omega)

/-- Entries from `hi` on also rise from `hi` on. -/
theorem rising_filter_ge {m : Memory} {lo : Nat} (hi : Nat) (h : Memory.rising lo m = true) :
    Memory.rising hi (m.filter fun c => decide (hi ≤ c.1)) = true := by
  induction m generalizing lo with
  | nil => rfl
  | cons c m ih =>
    simp only [Memory.rising, Bool.and_eq_true, decide_eq_true_eq] at h
    rw [List.filter_cons]
    split
    · next hc =>
      simp only [Memory.rising, Bool.and_eq_true]
      exact ⟨hc, rising_filter _ h.2⟩
    · exact ih h.2

theorem rising_cells (v : List Byte) (i : Nat) : Memory.rising i (Memory.cells i v) = true := by
  induction v generalizing i with
  | nil => rfl
  | cons b v ih => simp [Memory.cells, Memory.rising, ih]

/-- Every write inside a space keeps the canonical form. -/
theorem wf_splice {size i : Nat} {v : List Byte} {m : Memory} (h : Memory.wf size m = true)
    (hin : i + v.length ≤ size) : Memory.wf size (Memory.splice i v m) = true := by
  simp only [Memory.wf, Bool.and_eq_true, List.all_eq_true, decide_eq_true_eq] at h ⊢
  obtain ⟨hr, hb⟩ := h
  constructor
  · refine rising_append (mid := i + v.length) ?_ ?_ (Nat.zero_le _) (rising_filter_ge _ hr)
    · refine rising_append (mid := i) (rising_filter _ hr) ?_ (Nat.zero_le _) (rising_cells v i)
      intro c hc
      simpa using (List.mem_filter.mp hc).2
    · intro c hc
      rcases List.mem_append.mp hc with hc | hc
      · have := (List.mem_filter.mp hc).2
        simp only [decide_eq_true_eq] at this
        omega
      · exact (cells_mem_range hc).2
  · intro c hc
    simp only [Memory.splice, List.mem_append, List.mem_filter] at hc
    rcases hc with (hc | hc) | hc
    · exact hb c hc.1
    · have := cells_mem_range hc
      omega
    · exact hb c hc.1

theorem wf_nil (size : Nat) : Memory.wf size [] = true := rfl

/-- A write of a whole space leaves nothing of the old contents. -/
theorem splice_whole {size : Nat} {v : List Byte} {m : Memory} (h : Memory.wf size m = true)
    (hv : v.length = size) : Memory.splice 0 v m = Memory.cells 0 v := by
  simp only [Memory.wf, Bool.and_eq_true, List.all_eq_true, decide_eq_true_eq] at h
  have h₁ : m.filter (fun c => decide (c.1 < 0)) = [] := by simp
  have h₂ : m.filter (fun c => decide (0 + v.length ≤ c.1)) = [] := by
    rw [List.filter_eq_nil_iff]
    intro c hc
    have := h.2 c hc
    simp only [decide_eq_true_eq]
    omega
  rw [Memory.splice, h₁, h₂]
  simp

end Sys2Proof.Machine
end

