-- ==== Sys2Proof/Laws/Sizes.lean ====
section
/-! SUPPORT. What the relations between the parameters of R5 give: the buffers' sizes, the counts of pixel pairs, and the
arithmetic of a column inside a string of cells. -/

namespace Sys2Proof

@[simp] theorem bufSize_str (z : Sizes) : z.bufSize .str = z.strMax := rfl
@[simp] theorem bufSize_win (z : Sizes) : z.bufSize .win = z.winB := rfl
@[simp] theorem bufSize_frame (z : Sizes) : z.bufSize .frame = z.frameB := rfl

theorem Sizes.cellB_pos (z : Sizes) : 0 < z.cellB := by
  have := z.cell_pos
  rw [z.cellB_eq]
  omega

/-- The window is the cell rows one after the other (R32). -/
theorem Sizes.rows_cellB (z : Sizes) : z.cellB * z.cellPx = z.winB := by rw [z.winB_eq, Nat.mul_comm]

/-- The window's samples are `q` pairs of pixels and the frame has three bytes for each (R66, R68). -/
theorem Sizes.exists_pairs (z : Sizes) : ∃ q, z.winB = 6 * q ∧ z.frameB = 3 * q := by
  obtain ⟨h, hh⟩ : ∃ h, z.cellPx = 2 * h := ⟨z.cellPx / 2, by have := z.cell_even; omega⟩
  refine ⟨z.cellPx * h, ?_, ?_⟩
  · rw [z.winB_eq, z.cellB_eq, hh]; ring
  · rw [z.frameB_eq, z.cellB_eq, hh, show 2 * h * 3 / 2 = 3 * h by omega]; ring

/-- Every column a string admits fits the 16-bit TICKER and operand (R14). -/
theorem Sizes.column_fits (z : Sizes) {n : Nat} (h : n ≤ z.strMax) : z.cellPx * (n - 1) < 2 ^ 16 :=
  Nat.lt_of_le_of_lt (Nat.mul_le_mul_left _ (by omega)) z.cursor_fits

/-- `char1` is `char0` at a multiple of CELL_PX and the next character otherwise (R78). -/
theorem Sizes.char1_eq (z : Sizes) (k : Nat) :
    (k + (z.cellPx - 1)) / z.cellPx = if k % z.cellPx = 0 then k / z.cellPx else k / z.cellPx + 1 := by
  have hc := z.cell_pos
  have hm := Nat.mod_lt k hc
  have hk := Nat.div_add_mod k z.cellPx
  rw [Nat.div_eq_iff hc]
  split
  · constructor <;> rw [Nat.mul_comm] <;> omega
  · rw [Nat.add_mul, Nat.mul_comm (k / z.cellPx)]
    constructor <;> omega

/-- Both characters of a legal column are inside the string (R80). -/
theorem Sizes.chars_inside (z : Sizes) {k n : Nat} (hn : 1 ≤ n) (hk : k ≤ z.cellPx * (n - 1)) :
    k / z.cellPx < n ∧ (k + (z.cellPx - 1)) / z.cellPx < n := by
  have hc := z.cell_pos
  have hd : k / z.cellPx ≤ n - 1 := Nat.div_le_of_le_mul hk
  refine ⟨by omega, ?_⟩
  rw [z.char1_eq]
  split
  · omega
  · next hr =>
    have : k / z.cellPx ≠ n - 1 := by
      intro e
      have := Nat.div_add_mod k z.cellPx
      rw [e] at this
      omega
    omega

end Sys2Proof
end

