-- ==== Sys2Proof/Laws/Ops.lean ====
section
/-! SUPPORT. What the shared operations over buffers and registers do, once each. -/

namespace Sys2Proof.Machine

/-- What MemWrite changes (R34): the written bytes read as written, every other byte of every buffer as before. -/
theorem byte_memWrite (s : State) (b b' : Buf) (i : Nat) (v : List Byte) (a : Nat) :
    (s.memWrite b i v).byte b' a =
      if h : b' = b ∧ i ≤ a ∧ a - i < v.length then v[a - i]'h.2.2 else s.byte b' a := by
  have key : ∀ m : Memory, (∀ e, m = s.mem e → e = b →
      (match Memory.find (Memory.splice i v m) a with
        | some x => x
        | none => Config.unspecifiedByte s.epoch e a) =
      if h : i ≤ a ∧ a - i < v.length then v[a - i]'h.2 else s.byte e a) := by
    intro m e hm _
    rw [find_splice]
    by_cases h : i ≤ a ∧ a - i < v.length
    · have h' : i ≤ a ∧ a < i + v.length := by omega
      simp only [h', and_self, if_true, h, dite_true]
      rw [List.getElem?_eq_getElem h.2]
    · have h' : ¬ (i ≤ a ∧ a < i + v.length) := by omega
      simp only [h', if_false, h, dite_false]
      rw [hm]; rfl
  by_cases hb : b' = b
  · subst hb
    have := key (s.mem b') b' rfl rfl
    simp only [true_and]
    cases b' <;> exact this
  · simp only [hb, false_and, dite_false]
    cases b <;> cases b' <;> first | exact absurd rfl hb | rfl

@[simp] theorem byte_setDelta (s : State) (d : Int) : (s.setDelta d).byte = s.byte := by
  funext b; cases b <;> rfl
@[simp] theorem byte_emit (s : State) (f : List Byte) : (s.emit f).byte = s.byte := by
  funext b; cases b <;> rfl
@[simp] theorem byte_setTicker (s : State) (t : Int) : (s.setTicker t).byte = s.byte := by
  funext b; cases b <;> rfl
@[simp] theorem byte_setSlen (s : State) (n : Half) : (s.setSlen n).byte = s.byte := by
  funext b; cases b <;> rfl
@[simp] theorem byte_raise (s : State) (c : Cause) (w : Word) : (s.raise c w).byte = s.byte := by
  funext b; cases b <;> rfl
@[simp] theorem byte_advance (s : State) : s.advance.byte = s.byte := by
  funext b; cases b <;> rfl
@[simp] theorem byte_setPending (s : State) (p : List HostTxn) : (s.setPending p).byte = s.byte := by
  funext b; cases b <;> rfl
@[simp] theorem byte_answer (s : State) (r : Reply) : (s.answer r).byte = s.byte := by
  funext b; cases b <;> rfl

/-- A read inside its space gives its bytes in ascending order (R33). -/
theorem memRead_inside {s : State} {b : Buf} {i n : Nat} (h : i + n ≤ s.params.bufSize b) :
    s.memRead b i n = some ((List.range n).map fun j => s.byte b (i + j)) := by
  rw [State.memRead, if_pos h]

theorem memRead_outside {s : State} {b : Buf} {i n : Nat} (h : ¬ i + n ≤ s.params.bufSize b) :
    s.memRead b i n = none := by
  rw [State.memRead, if_neg h]

/-- The bytes PACK reads (R65). -/
theorem memRead_win (s : State) :
    s.memRead .win 0 s.params.winB = some ((List.range s.params.winB).map (s.byte .win)) := by
  rw [memRead_inside (by simp)]
  simp

/-- The string the windower works on, while it fits the buffer (R102). -/
theorem currentString_fits {s : State} (h : s.stringFits) : s.currentString = some s.characters := by
  rw [State.stringFits] at h
  rw [State.currentString, memRead_inside (by simpa using h)]
  simp [State.characters]

theorem currentString_overflow {s : State} (h : ¬ s.stringFits) : s.currentString = none := by
  rw [State.stringFits] at h
  exact memRead_outside (by simpa using h)

@[simp] theorem characters_length (s : State) : s.characters.length = s.slen.toNat := by
  simp [State.characters]

/-- FAULT is set by fault entry (R109). -/
@[simp] theorem halted_raise (s : State) (c : Cause) (w : Word) : (s.raise c w).halted = true := by
  rw [State.halted, raise_status]
  cases c <;> decide

@[simp] theorem halted_setDelta (s : State) (d : Int) : (s.setDelta d).halted = s.halted := rfl
@[simp] theorem halted_emit (s : State) (f : List Byte) : (s.emit f).halted = s.halted := rfl
@[simp] theorem halted_setTicker (s : State) (t : Int) : (s.setTicker t).halted = s.halted := rfl
@[simp] theorem halted_setSlen (s : State) (n : Half) : (s.setSlen n).halted = s.halted := rfl
@[simp] theorem halted_advance (s : State) : (s.advance).halted = s.halted := rfl
@[simp] theorem halted_setPending (s : State) (p : List HostTxn) : (s.setPending p).halted = s.halted := rfl
@[simp] theorem halted_answer (s : State) (r : Reply) : (s.answer r).halted = s.halted := rfl
@[simp] theorem halted_memWrite (s : State) (b : Buf) (i : Nat) (v : List Byte) :
    (s.memWrite b i v).halted = s.halted := by cases b <;> rfl
@[simp] theorem halted_blockReset (s : State) : s.blockReset.halted = false := by
  rw [State.halted, blockReset_status]; decide

@[simp] theorem faultStatus_invalidInput : faultStatus .invalidInput = 0x21#8 := rfl
@[simp] theorem faultStatus_illegalCommand : faultStatus .illegalCommand = 0x41#8 := rfl

/-- FAULT depends on STATUS alone. -/
theorem halted_congr {s t : State} (h : t.status = s.status) : t.halted = s.halted := by
  rw [State.halted, State.halted, h]

@[simp] theorem delta_setDelta_pos (s : State) : (s.setDelta 1).delta = 1 := rfl
@[simp] theorem delta_setDelta_neg (s : State) : (s.setDelta (-1)).delta = -1 := rfl

theorem delta_cases (s : State) : s.delta = 1 ∨ s.delta = -1 := by
  rw [State.delta]; split <;> simp

/-- A value that fits the 16-bit register is held exactly (R58). -/
theorem setTicker_toNat {s : State} {t : Int} (h₀ : 0 ≤ t) (h₁ : t < 65536) :
    ((s.setTicker t).ticker.toNat : Int) = t := by
  simp only [setTicker_ticker, BitVec.toNat_ofInt]
  omega

end Sys2Proof.Machine
end

