-- ==== Sys2Proof/Laws/Pack.lean ====
section
/-! SUPPORT. The quantizer by one pair at a time, and for which lengths it answers (41_pixel_packer.md R66, R68). -/

namespace Sys2Proof.Machine

@[simp] theorem pack_nil (order : EmitOrder) : pack order [] = .ok [] := by rw [pack]

theorem pack_pair (order : EmitOrder) (a b c d e g : Byte) (rest : List Byte) :
    pack order (a :: b :: c :: d :: e :: g :: rest) =
      match pack order rest with
      | .ok later => .ok (emitPair order (packPair a b c d e g) later)
      | .error k => .error k := by
  rw [pack] <;> rfl

@[simp] theorem emitPair_length (order : EmitOrder) (x y : List Byte) :
    (emitPair order x y).length = x.length + y.length := by
  cases order <;> simp [emitPair]; omega

/-- A list of at least six samples is one pair and the rest. -/
theorem exists_pair {x : List Byte} (h : 6 ≤ x.length) :
    ∃ a b c d e g rest, x = a :: b :: c :: d :: e :: g :: rest := by
  match x, h with
  | a :: b :: c :: d :: e :: g :: rest, _ => exact ⟨a, b, c, d, e, g, rest, rfl⟩

/-- The quantizer answers `3q` bytes on `6q` samples. -/
theorem pack_ok (order : EmitOrder) (q : Nat) (x : List Byte) (h : x.length = 6 * q) :
    ∃ out, pack order x = .ok out ∧ out.length = 3 * q := by
  induction q generalizing x with
  | zero => exact ⟨[], by rw [List.length_eq_zero_iff.mp (by omega : x.length = 0), pack_nil], rfl⟩
  | succ q ih =>
    obtain ⟨a, b, c, d, e, g, rest, rfl⟩ := exists_pair (x := x) (by omega)
    obtain ⟨later, hl, hlen⟩ := ih rest (by simp at h; omega)
    refine ⟨_, by rw [pack_pair, hl], ?_⟩
    simp [packPair, hlen]
    omega

end Sys2Proof.Machine
end

