-- ==== Sys2Proof/Laws/Window.lean ====
section
/-! SUPPORT. Atlas rows read inside their width, and lists built of equal rows (20_memory.md R32, R33). -/

namespace Sys2Proof.Machine

/-- The glyph index, its fallback written out (R60). -/
theorem gidx_eq (p : Params) (code : Int) :
    gidx p code = if (code - p.fcc) * p.cellB < 0 ∨ (code - p.fcc) * p.cellB + p.cellB > (p.width : Int) then 0
      else ((code - p.fcc) * p.cellB).toNat := rfl

theorem row_width (p : Params) {r : Nat} (h : r < p.cellPx) : (p.rows.getD r []).length = p.width := by
  have hr : r < p.rows.length := by rw [p.rows_count]; exact h
  rw [List.getD_eq_getElem _ _ hr]
  exact p.rows_width _ (List.getElem_mem hr)

/-- A read inside a row gives exactly `n` bytes (R33). -/
theorem atlasRead_length (p : Params) {r b n : Nat} (hr : r < p.cellPx) (h : b + n ≤ p.width) :
    (atlasRead p r b n).length = n := by
  rw [atlasRead, List.length_take, List.length_drop, row_width p hr]
  omega

/-- Byte `j` of a read is byte `b + j` of the row (R33). -/
theorem atlasRead_getElem? (p : Params) (r b n j : Nat) (h : j < n) :
    (atlasRead p r b n)[j]? = (p.rows.getD r [])[b + j]? := by
  rw [atlasRead, List.getElem?_take_of_lt h, List.getElem?_drop]

/-- Element `w * r + j` of `n` rows of `w` bytes is element `j` of row `r`. -/
theorem flatMap_range_getElem? {α : Type} (g : Nat → List α) (w n r j : Nat)
    (hg : ∀ r < n, (g r).length = w) (hr : r < n) (hj : j < w) :
    ((List.range n).flatMap g)[w * r + j]? = (g r)[j]? := by
  induction n with
  | zero => omega
  | succ n ih =>
    have hlen : ((List.range n).flatMap g).length = w * n := by
      rw [List.length_flatMap, List.map_congr_left (g := fun _ => w)
        (fun x hx => hg x (by have := List.mem_range.mp hx; omega))]
      simp [Nat.mul_comm]
    rw [List.range_succ, List.flatMap_append]
    rcases Nat.lt_or_ge r n with h | h
    · have hlt : w * r + j < w * n := calc
        w * r + j < w * r + w := by omega
        _ = w * (r + 1) := by rw [Nat.mul_succ]
        _ ≤ w * n := Nat.mul_le_mul_left w h
      rw [List.getElem?_append_left (by rw [hlen]; exact hlt)]
      exact ih (fun r hr => hg r (by omega)) h
    · obtain rfl : r = n := by omega
      rw [List.getElem?_append_right (by rw [hlen]; omega), hlen]
      simp

theorem flatMap_range_length {α : Type} (g : Nat → List α) (w n : Nat)
    (hg : ∀ r < n, (g r).length = w) : ((List.range n).flatMap g).length = w * n := by
  rw [List.length_flatMap, List.map_congr_left (g := fun _ => w)
    (fun x hx => hg x (List.mem_range.mp hx))]
  simp [Nat.mul_comm]

/-- The shared operation of WSTR and WCUR: it faults the block, or writes the window and nothing else. -/
theorem windowString_fits {s : State} (h : s.stringFits) (k : Int) (w : Word) :
    windowString k w s =
      match forString s.params s.characters k with
      | .error c => .next (s.raise c w)
      | .ok x => .next (s.memWrite .win 0 x) := by
  rw [windowString, currentString_fits h] <;> rfl

theorem windowString_overflow {s : State} (h : ¬ s.stringFits) (k : Int) (w : Word) :
    windowString k w s = .fault (.outsideSpace .str 0 s.slen.toNat) := by
  rw [windowString, currentString_overflow h]

/-- What the windower of a string can answer: InvalidInput, or the rows of two cells (R78, R80). -/
theorem forString_cases (p : Params) (str : List Byte) (k : Int) :
    forString p str k = .error .invalidInput ∨
      ∃ col0 col1 shift, forString p str k = .ok (windowRows p col0 col1 shift) ∧ shift < p.cellPx := by
  unfold forString
  split
  · exact .inl rfl
  · split
    · exact .inl rfl
    · split
      · exact .inr ⟨_, _, _, rfl, Nat.mod_lt _ p.cell_pos⟩
      · exact .inl rfl

end Sys2Proof.Machine
end

