-- ==== Sys2Proof/Laws/Exec.lean ====
section
/-! SUPPORT. What a command can do, said once per command: each lemma gives exec's answer in terms of the named updates, so
that no later proof unfolds a meaning. -/

namespace Sys2Proof.Machine

/-- PACK packs the window and emits the frame (R65). -/
theorem exec_pack {s : State} {f : List Byte}
    (h : pack s.params.emitOrder ((List.range s.params.winB).map (s.byte .win)) = .ok f) :
    exec .pack s = .next ((s.memWrite .frame 0 f).emit f) := by
  rw [exec, execPack, memRead_win]
  simp only [h]

theorem exec_wchr (s : State) (code : Byte) :
    exec (.wchr code) s = .next (s.memWrite .win 0 (forChar s.params code.toNat)) := rfl

theorem exec_wstr (s : State) (k : Half) :
    exec (.wstr k) s = windowString k.toNat (encode (.wstr k)) s := rfl

theorem exec_wcur (s : State) : exec .wcur s = windowString s.ticker.toNat (encode .wcur) s := rfl

/-- The transition of the cursor, its three cases written out (R91). -/
theorem tickNext_eq (p : Params) (t d n : Int) :
    tickNext p t d n = if t + d ≥ (n - 1) * p.cellPx then ((n - 1) * p.cellPx, -1) else if t + d ≤ 0 then (0, 1)
      else (t + d, d) := rfl

theorem exec_tick_empty {s : State} (h : s.slen = 0#16) :
    exec .tick s = .next (s.raise .invalidInput (encode .tick)) := by
  rw [exec, execTick, if_pos h]

theorem exec_tick {s : State} (h : s.slen ≠ 0#16) :
    exec .tick s = .next ((s.setTicker (tickNext s.params s.ticker.toNat s.delta s.slen.toNat).1).setDelta
      (tickNext s.params s.ticker.toNat s.delta s.slen.toNat).2) := by
  rw [exec, execTick, if_neg h]

theorem exec_rtik (s : State) : exec .rtik s = .next ((s.setTicker 0).setDelta 1) := rfl

theorem exec_slen_long {s : State} {n : Half} (h : s.params.strMax < n.toNat) :
    exec (.slen n) s = .next (s.raise .invalidInput (encode (.slen n))) := by
  rw [exec, execSlen, if_pos (by simpa [lengthOperand] using h)]

theorem exec_slen {s : State} {n : Half} (h : n.toNat ≤ s.params.strMax) :
    exec (.slen n) s = .next (s.setSlen n) := by
  rw [exec, execSlen, if_neg (by simpa [lengthOperand] using h)]

theorem exec_schr_outside {s : State} {idx : Half} {code : Byte} (h : s.params.strMax ≤ idx.toNat) :
    exec (.schr idx code) s = .next (s.raise .invalidInput (encode (.schr idx code))) := by
  rw [exec, execSchr, if_pos (by simpa [indexOperand] using h)]

theorem exec_schr {s : State} {idx : Half} {code : Byte} (h : idx.toNat < s.params.strMax) :
    exec (.schr idx code) s = .next (s.memWrite .str idx.toNat [code]) := by
  rw [exec, execSchr, if_neg (by simpa [indexOperand] using h)]
  rfl

/-- The next transaction of a machine that has one (R39). -/
theorem step_pending {s : State} {x : HostTxn} {rest : List HostTxn} (h : s.pending = x :: rest) :
    step s = serve x (s.setPending rest) := by
  rw [step, serveNext, h]

theorem step_idle {s : State} (h : s.pending = []) : step s = .next s := by
  rw [step, serveNext, h]

/-- A run of `n + 1` steps that ends in a next state takes one step and goes on for `n`. -/
theorem run_succ_next {n : Nat} {s t : State} (h : Host.Core.run core (n + 1) s = .next t) :
    ∃ s', step s = .next s' ∧ Host.Core.run core n s' = .next t := by
  have e := (Host.Core.run.eq_2 core s n).symm.trans h
  split at e
  · next s' hs => exact ⟨s', hs, e⟩
  · cases e
  · cases e

theorem serveCommand_halted {s : State} {w : Word} (h : s.halted = true) :
    serveCommand w s = .next s.advance := by
  rw [serveCommand, if_pos h]

theorem serveCommand_illegal {s : State} {w : Word} {why : Illegal} (h : s.halted = false)
    (hd : decode w = .illegal why) :
    serveCommand w s = .next (s.advance.raise .illegalCommand w) := by
  rw [serveCommand, h, hd]; rfl

theorem serveCommand_command {s : State} {w : Word} {i : Instr} (h : s.halted = false)
    (hd : decode w = .command i) : serveCommand w s = exec i s.advance := by
  rw [serveCommand, h, hd]; rfl

end Sys2Proof.Machine
end

