-- ==== Sys2Proof/Laws/PerInstr.lean ====
section
/-! SUPPORT. Per command: its encoding is well formed (30_encoding.md R46, R49), one lemma per constructor. -/

namespace Sys2Proof.Laws.EncodeWellFormed

/-- The fields of the command's word form a command: an assigned opcode, every unused field zero. -/
def Statement (i : Instr) : Prop := (fieldsOf (encode i)).wellFormed = true

theorem pack : Statement .pack := by rw [Statement]; decide
theorem wchr (code : Byte) : Statement (.wchr code) := by
  simp [Statement, encode, encodeFields, Fields.wellFormed, opFormat, Format.usesA, Format.usesImm]
theorem wstr (k : Half) : Statement (.wstr k) := by
  simp [Statement, encode, encodeFields, Fields.wellFormed, opFormat, Format.usesA, Format.usesImm]
theorem wcur : Statement .wcur := by rw [Statement]; decide
theorem tick : Statement .tick := by rw [Statement]; decide
theorem rtik : Statement .rtik := by rw [Statement]; decide
theorem slen (n : Half) : Statement (.slen n) := by
  simp [Statement, encode, encodeFields, Fields.wellFormed, opFormat, Format.usesA, Format.usesImm]
theorem schr (idx : Half) (code : Byte) : Statement (.schr idx code) := by
  simp [Statement, encode, encodeFields, Fields.wellFormed, opFormat, Format.usesA, Format.usesImm]

end Sys2Proof.Laws.EncodeWellFormed
end

