-- ==== Sys2Proof/Tests/Slice0.lean ====
section
/-! SUPPORT. Tests against the vectors of 95_test_vectors.md and the tables of the family files, the smoke test of the
well-formedness checks, and for every statement with hypotheses a witness that meets them, at the boundary of each clause. -/

namespace Sys2Proof.Tests

open Sys2Proof.Machine

/-! ## Helpers -/

/-- The test atlas T (95_test_vectors.md section 0): FCC = 48, ATLAS_W = 48, on the sizes of this hardware. -/
def fontT : Params where
  toSizes := Config.sizes
  emitOrder := .reverse
  fcc := 48
  width := 48
  rows := (List.range 8).map fun r => (List.range 16).flatMap fun x =>
    [BitVec.ofNat 8 (16 * x + r), BitVec.ofNat 8 (16 * r + x), BitVec.ofNat 8 (16 * ((x + r) % 16) + 15)]
  fcc_code := by decide
  width_mod := by decide
  width_min := by decide
  rows_count := by decide
  rows_width := by decide

/-- An atlas of `w` zero bytes a row, for the widths of section 2. -/
def fontOf (fcc w : Nat) (h₀ : fcc < 256) (h₁ : w % 3 = 0) (h₂ : 24 ≤ w) : Params where
  toSizes := Config.sizes
  emitOrder := .reverse
  fcc := fcc
  width := w
  rows := List.replicate 8 (List.replicate w 0#8)
  fcc_code := h₀
  width_mod := h₁
  width_min := h₂
  rows_count := by simp [Config.sizes]
  rows_width := by simp

/-- Other sizes than this hardware's, to show that every rule takes them as arguments: cells of 2 by 2 pixels, strings of
at most 4 characters. -/
def smallSizes : Sizes where
  codeW := 9
  strMax := 4
  cellPx := 2
  cellB := 6
  winB := 12
  frameB := 6
  code_field := by decide
  str_fits := by decide
  cursor_fits := by decide
  cell_pos := by decide
  cell_even := by decide
  cellB_eq := by decide
  winB_eq := by decide
  frameB_eq := by decide

/-- Two cells of 2 by 2 pixels: byte `b` of row `r` is `16 * r + b`. -/
def smallFont : Params where
  toSizes := smallSizes
  emitOrder := .reverse
  fcc := 48
  width := 12
  rows := (List.range 2).map fun r => (List.range 12).map fun b => BitVec.ofNat 8 (16 * r + b)
  fcc_code := by decide
  width_mod := by decide
  width_min := by decide
  rows_count := by decide
  rows_width := by decide

/-- The block after reset with the font T. -/
def base : State := { State.reset with params := fontT }

/-- The block after `LDSTR "010"`. -/
def loaded : State := { base with slen := 3#16, str := [(0, 48#8), (1, 49#8), (2, 48#8)] }

/-- The same at a cursor position and direction. -/
def cursorAt (t : Half) (dir : BitVec 1) : State := { loaded with ticker := t, dir := dir }

/-- The block with one transaction pending. -/
def having (t : HostTxn) (s : State) : State := { s with pending := [t] }

/-- The block halted by an illegal word. -/
def haltedBlock : State := { loaded with status := 0x41#8, fcmd := 0x09000000#32 }

def nextOf (o : Host.Outcome State Fault Refusal) : Option State :=
  match o with
  | .next s => some s
  | .fault _ => none
  | .refused _ => none

def refusalOf (o : Host.Outcome State Fault Refusal) : Option Refusal :=
  match o with
  | .next _ => none
  | .fault _ => none
  | .refused r => some r

/-- `n` bytes of a buffer from index `i` in the next state. -/
def bytesAfter (o : Host.Outcome State Fault Refusal) (b : Buf) (i n : Nat) : Option (List Byte) :=
  (nextOf o).map fun s => (List.range n).map fun j => s.byte b (i + j)

/-- STATUS and FCMD in the next state. -/
def faultAfter (o : Host.Outcome State Fault Refusal) : Option (BitVec 8 × Word) :=
  (nextOf o).map fun s => (s.status, s.fcmd)

/-- TICKER and DELTA in the next state. -/
def cursorAfter (o : Host.Outcome State Fault Refusal) : Option (Nat × Int) :=
  (nextOf o).map fun s => (s.ticker.toNat, s.delta)

/-- What a step makes of a word issued as the first command after reset. -/
def first (w : Word) : Option (BitVec 8 × Word) := faultAfter (step (having (.cmd w) base))

/-! ## Well-formedness: one ill-formed term for each check (R46, R49) -/

theorem test_illformed_unassigned_zero : (Fields.mk 0x00#8 0#8 0#16).wellFormed = false := by decide
theorem test_illformed_unassigned_nine : (Fields.mk 0x09#8 0#8 0#16).wellFormed = false := by decide
theorem test_illformed_field_a_N : (Fields.mk 0x05#8 1#8 0#16).wellFormed = false := by decide
theorem test_illformed_field_imm_N : (Fields.mk 0x01#8 0#8 1#16).wellFormed = false := by decide
theorem test_illformed_field_imm_A : (Fields.mk 0x02#8 49#8 1#16).wellFormed = false := by decide
theorem test_illformed_field_a_I : (Fields.mk 0x03#8 1#8 0#16).wellFormed = false := by decide
theorem test_wellformed_AI : (Fields.mk 0x08#8 255#8 0xFFFF#16).wellFormed = true := by decide

/-! ## Decoding: words bit by bit from the encodings of opcode_table.json -/

theorem test_word_schr : decode 0b00001000_00110001_0000000000000001#32 = .command (.schr 1#16 49#8) := by decide
theorem test_word_wstr : decode 0b00000011_00000000_0000000000000011#32 = .command (.wstr 3#16) := by decide
theorem test_word_slen : decode 0b00000111_00000000_0000000100000000#32 = .command (.slen 256#16) := by decide
theorem test_word_wchr : decode 0b00000010_00110001_0000000000000000#32 = .command (.wchr 49#8) := by decide
theorem test_word_table_pack : decodeTableWord 32 16777216 = some .pack := by decide
theorem test_word_table_rtik : decodeTableWord 32 100663296 = some .rtik := by decide
theorem test_word_table_illegal : decodeTableWord 32 0 = none := by decide
theorem test_encode_schr : encode (.schr 2#16 48#8) = 0x08300002#32 := by decide
theorem test_expand_ldstr : expand (.ldstr [48#8, 49#8]) =
    some [.schr 0#16 48#8, .schr 1#16 49#8, .slen 2#16, .rtik] := by decide
theorem test_assembly : assembly (.schr 2#16 48#8) = "SCHR 2, 48" := by decide

/-! ## The glyph index (section 2) -/

theorem test_gidx_T : [48, 49, 50, 57, 47, 0, 255].map (gidx fontT) = [0, 24, 0, 0, 0, 0, 0] := by decide
theorem test_gidx_96_cells :
    [32, 127, 128].map (gidx (fontOf 32 2304 (by decide) (by decide) (by decide))) = [0, 2280, 0] := by
  decide
theorem test_gidx_stray_pixel :
    [33, 34].map (gidx (fontOf 32 51 (by decide) (by decide) (by decide))) = [24, 0] := by decide
theorem test_gidx_top_code :
    [255, 254].map (gidx (fontOf 255 48 (by decide) (by decide) (by decide))) = [0, 0] := by decide

/-! ## The quantizer (section 3) -/

/-- The bytes of an answer. -/
def bytesOf (r : Except Cause (List Byte)) : Option (List Byte) :=
  match r with
  | .ok x => some x
  | .error _ => none

theorem test_pack_one_pair : bytesOf (pack .reverse [0x12#8, 0x34#8, 0x56#8, 0x78#8, 0x9A#8, 0xBC#8]) =
    some [0x97#8, 0x1B#8, 0x53#8] := by decide
theorem test_pack_two_pairs_reverse :
    bytesOf (pack .reverse [0xFF#8, 0#8, 0#8, 0#8, 0xFF#8, 0#8, 0#8, 0#8, 0xFF#8, 0x0F#8, 0x1F#8, 0xEF#8]) =
    some [0x10#8, 0x0E#8, 0xF0#8, 0xF0#8, 0xF0#8, 0x00#8] := by decide
theorem test_pack_two_pairs_forward :
    bytesOf (pack .forward [0xFF#8, 0#8, 0#8, 0#8, 0xFF#8, 0#8, 0#8, 0#8, 0xFF#8, 0x0F#8, 0x1F#8, 0xEF#8]) =
    some [0xF0#8, 0xF0#8, 0x00#8, 0x10#8, 0x0E#8, 0xF0#8] := by decide
theorem test_pack_odd_length : bytesOf (pack .reverse [0#8, 0#8, 0#8]) = none := by decide

/-! ## PACK (section 4: the FRAME of '0', its first and last line) -/

/-- The block after `WCHR '0'`. -/
def windowed : State := base.memWrite .win 0 (forChar fontT 48)

theorem test_pack_first_line : bytesAfter (exec .pack windowed) .frame 0 12 =
    some [0x77#8, 0x6E#8, 0xD7#8, 0x75#8, 0x4C#8, 0xB7#8, 0x73#8, 0x2A#8, 0x97#8, 0x71#8, 0x08#8, 0x77#8] := by
  decide
theorem test_pack_last_line : bytesAfter (exec .pack windowed) .frame 84 12 =
    some [0x07#8, 0x67#8, 0x60#8, 0x05#8, 0x45#8, 0x40#8, 0x03#8, 0x23#8, 0x20#8, 0x01#8, 0x01#8, 0x00#8] := by
  decide

/-! ## WCHR, WSTR, WCUR (section 4) -/

theorem test_wchr_one : bytesAfter (exec (.wchr 49#8) base) .win 0 6 =
    some [0x80#8, 0x08#8, 0x8F#8, 0x90#8, 0x09#8, 0x9F#8] := by decide
theorem test_wchr_fallback_last_row : bytesAfter (exec (.wchr 57#8) base) .win 186 6 =
    some [0x67#8, 0x76#8, 0xDF#8, 0x77#8, 0x77#8, 0xEF#8] := by decide
theorem test_wstr_straddles : bytesAfter (exec (.wstr 3#16) loaded) .win 0 24 =
    some [0x30#8, 0x03#8, 0x3F#8, 0x40#8, 0x04#8, 0x4F#8, 0x50#8, 0x05#8, 0x5F#8, 0x60#8, 0x06#8, 0x6F#8,
      0x70#8, 0x07#8, 0x7F#8, 0x80#8, 0x08#8, 0x8F#8, 0x90#8, 0x09#8, 0x9F#8, 0xA0#8, 0x0A#8, 0xAF#8] := by
  decide
theorem test_wstr_past_last_column : faultAfter (exec (.wstr 17#16) loaded) = some (0x21#8, 0x03000011#32) := by
  decide
theorem test_wcur_column_13 : bytesAfter (exec .wcur (cursorAt 13#16 1#1)) .win 0 24 =
    some [0xD0#8, 0x0D#8, 0xDF#8, 0xE0#8, 0x0E#8, 0xEF#8, 0xF0#8, 0x0F#8, 0xFF#8, 0x00#8, 0x00#8, 0x0F#8,
      0x10#8, 0x01#8, 0x1F#8, 0x20#8, 0x02#8, 0x2F#8, 0x30#8, 0x03#8, 0x3F#8, 0x40#8, 0x04#8, 0x4F#8] := by
  decide
theorem test_wcur_shortened_string :
    faultAfter (exec .wcur { cursorAt 12#16 0#1 with slen := 2#16 }) = some (0x21#8, 0x04000000#32) := by
  decide
/-- The string "0Z" of section 4: 90 is out of range on T and shows the fallback glyph, cell 0. -/
theorem test_string_fallback : (bytesOf (forString fontT [48#8, 90#8] 4)).map (fun x => x.take 24) =
    some [0x40#8, 0x04#8, 0x4F#8, 0x50#8, 0x05#8, 0x5F#8, 0x60#8, 0x06#8, 0x6F#8, 0x70#8, 0x07#8, 0x7F#8,
      0x00#8, 0x00#8, 0x0F#8, 0x10#8, 0x01#8, 0x1F#8, 0x20#8, 0x02#8, 0x2F#8, 0x30#8, 0x03#8, 0x3F#8] := by
  decide

/-! ## TICK, RTIK (43_scroll_ticker.md section 3) -/

theorem test_tick_upper_bound : cursorAfter (exec .tick (cursorAt 15#16 0#1)) = some (16, -1) := by decide
theorem test_tick_zero : cursorAfter (exec .tick (cursorAt 1#16 1#1)) = some (0, 1) := by decide
theorem test_tick_next_table :
    [((0 : Int), (1 : Int), (3 : Int)), (14, 1, 3), (16, -1, 3), (0, -1, 3), (16, 1, 3), (7, 1, 2), (16, 1, 2),
      (12, -1, 2), (0, 1, 1), (0, -1, 1), (2039, 1, 256)].map (fun x => tickNext fontT x.1 x.2.1 x.2.2) =
    [(1, 1), (15, 1), (15, -1), (0, 1), (16, -1), (8, -1), (8, -1), (8, -1), (0, -1), (0, 1), (2040, -1)] := by
  decide
/-- R98: the position reaches 16 at tick 16 and is 12 after tick 20. -/
theorem test_twenty_ticks : (ticks fontT 3 16 (0, 1), ticks fontT 3 20 (0, 1)) = ((16, -1), (12, -1)) := by decide
theorem test_rtik : cursorAfter (exec .rtik (cursorAt 12#16 1#1)) = some (0, 1) := by decide

/-! ## SLEN, SCHR (44_string_load.md) -/

theorem test_slen_longest : (nextOf (exec (.slen 256#16) base)).map (·.slen) = some 256#16 := by decide
theorem test_slen_too_long : (nextOf (exec (.slen 257#16) loaded)).map (fun s => (s.slen, s.status, s.fcmd)) =
    some (3#16, 0x21#8, 0x07000101#32) := by decide
theorem test_schr_last : bytesAfter (exec (.schr 255#16 255#8) loaded) .str 255 1 = some [255#8] := by decide
theorem test_schr_outside : (nextOf (exec (.schr 256#16 65#8) loaded)).map (fun s => (s.str, s.status, s.fcmd)) =
    some (loaded.str, 0x21#8, 0x08410100#32) := by decide

/-! ## Other sizes (R5): expected values by hand from R78, R91 and R100 -/

theorem test_small_window : bytesOf (forString smallFont [48#8, 49#8] 1) =
    some [3#8, 4#8, 5#8, 6#8, 7#8, 8#8, 19#8, 20#8, 21#8, 22#8, 23#8, 24#8] := by decide
theorem test_small_bound : tickNext smallFont 5 1 4 = (6, -1) := by decide
theorem test_small_string_too_long :
    faultAfter (exec (.slen 5#16) { State.reset with params := smallFont }) = some (0x21#8, 0x07000005#32) := by
  decide
theorem test_hardware_sizes : [Config.params.codeW, Config.params.strMax, Config.params.cellPx, Config.params.cellB,
    Config.params.winB, Config.params.frameB] = [8, 256, 8, 24, 192, 96] := by decide

/-! ## Faults and the halted block (section 6) -/

theorem test_first_illegal_zero : first 0x00000000#32 = some (0x41#8, 0x00000000#32) := by decide
theorem test_first_illegal_wchr : first 0x02310001#32 = some (0x41#8, 0x02310001#32) := by decide
theorem test_first_rtik : first 0x06000000#32 = some (0x00#8, 0x00000000#32) := by decide
theorem test_first_wstr : first 0x03000000#32 = some (0x21#8, 0x03000000#32) := by decide
theorem test_first_tick : first 0x05000000#32 = some (0x21#8, 0x05000000#32) := by decide
theorem test_first_schr : first 0x0800FFFF#32 = some (0x21#8, 0x0800FFFF#32) := by decide
theorem test_halted_ignores : nextOf (step (having (.cmd 0x06000000#32) { haltedBlock with ticker := 9#16 })) =
    some { haltedBlock with ticker := 9#16, ci := 1 } := by decide
theorem test_reset_leaves_halt : (nextOf (step (having .reset haltedBlock))).map
    (fun s => (s.halted, s.slen, s.fcmd, s.epoch)) = some (false, 0#16, 0#32, 1) := by decide
theorem test_regread_status : (nextOf (step (having (.regRead 0) haltedBlock))).map (·.replies) =
    some [.reg 0x41#32] := by decide
theorem test_bufread_atlas : (nextOf (step (having (.atlasRead 7 47) base))).map (·.replies) =
    some [.byte 0x6F#8] := by decide
theorem test_regread_reserved : refusalOf (step (having (.regRead 5) base)) = some (.reservedRegister 5) := by decide

/-! ## The fetch from reset -/

theorem test_fetch_first : (nextOf (step (State.reset.withFetchWord 32 100663296))).map (·.ci) = some 1 := by decide

/-! ## Witnesses: for every statement with hypotheses, values that meet them -/

theorem loaded_fits : loaded.stringFits := by unfold State.stringFits; decide

theorem loaded_inv : loaded.Inv := by
  refine ⟨loaded_fits, by decide, .inl rfl, fun _ => rfl, by decide, by decide, by decide, ?_⟩
  intro f hf
  exact absurd hf (List.not_mem_nil)

theorem witness_illegal_word :
    (having (.cmd 0x01000001#32) base).pending = [.cmd 0x01000001#32] ∧
    (having (.cmd 0x01000001#32) base).halted = false ∧ ∃ why, decode 0x01000001#32 = .illegal why :=
  ⟨rfl, by decide, .nonZeroField, by decide⟩
theorem witness_illegal_boundaries : decode 0x08FFFFFF#32 = .command (.schr 0xFFFF#16 0xFF#8) ∧
    decode 0x09000000#32 = .illegal .unassignedOpcode ∧ decode 0x00FFFFFF#32 = .illegal .unassignedOpcode ∧
    decode 0x07010000#32 = .illegal .nonZeroField := by decide
theorem witness_decode_encode : decode 0x0300FFFF#32 = .command (.wstr 0xFFFF#16) := by decide
theorem witness_reset_event : (having .reset haltedBlock).pending = .reset :: [] := rfl
theorem witness_step_inv : (having (.cmd 0x06000000#32) loaded).Inv ∧
    ∃ t, step (having (.cmd 0x06000000#32) loaded) = .next t := ⟨loaded_inv, _, rfl⟩
theorem witness_step_frame_last : (having (.cmd 0x01000000#32) loaded).Inv ∧
    (having (.cmd 0x01000000#32) loaded).FrameIsLastOut ∧
    ∃ t, step (having (.cmd 0x01000000#32) loaded) = .next t := ⟨loaded_inv, rfl, _, rfl⟩
theorem witness_command_answers : (having (.cmd 0x03000010#32) loaded).Inv ∧
    (having (.cmd 0x03000010#32) loaded).pending = .cmd 0x03000010#32 :: [] := ⟨loaded_inv, rfl⟩
theorem witness_parameter_run : ∃ t, Host.Core.run core 2
    (State.reset.setPending [.cmd 0x06000000#32, .reset]) = .next t := ⟨_, rfl⟩
theorem witness_parameters : ∃ t, step (having (.cmd 0x01000000#32) base) = .next t := ⟨_, rfl⟩
theorem witness_out_reset : ∃ t, step (having .reset base) = .next t ∧ t.out = [] := ⟨_, rfl, rfl⟩
theorem witness_out_pack : ∃ t, step (having (.cmd 0x01000000#32) base) = .next t ∧ t.out.length = 1 :=
  ⟨_, rfl, rfl⟩
theorem witness_decoded_command : (having (.cmd 0x06000000#32) base).pending = .cmd 0x06000000#32 :: [] ∧
    (having (.cmd 0x06000000#32) base).halted = false ∧ decode 0x06000000#32 = .command .rtik ∧
    decodeTableWord 32 100663296 = some .rtik := ⟨rfl, by decide, by decide, by decide⟩
theorem witness_idle : State.reset.pending = [] := rfl
theorem witness_halted : haltedBlock.halted = true ∧ (having (.cmd 0#32) haltedBlock).pending = .cmd 0#32 :: [] ∧
    (having (.regRead 4) haltedBlock).pending = .regRead 4 :: [] ∧ (4 < 5) ∧
    (having (.bufRead .win 191) haltedBlock).pending = .bufRead .win 191 :: [] ∧ 191 < haltedBlock.params.bufSize .win ∧
    atlasRead haltedBlock.params 7 47 1 = [0x6F#8] ∧ (having .reset haltedBlock).pending = .reset :: [] := by
  refine ⟨by decide, rfl, rfl, by decide, rfl, by decide, by decide, rfl⟩
theorem witness_register_read : (having (.regRead 2) (cursorAt 5#16 1#1)).pending = .regRead 2 :: [] ∧
    1#32 = (cursorAt 5#16 1#1).dir.setWidth 32 := ⟨rfl, by decide⟩
theorem witness_register_read_others : (0x41#32 = (haltedBlock.status &&& 0xF1#8).setWidth 32) ∧
    (5#32 = (cursorAt 5#16 1#1).ticker.setWidth 32) ∧ (3#32 = loaded.slen.setWidth 32) ∧
    (0x09000000#32 = haltedBlock.fcmd) := by decide
theorem witness_buffer_read : (having (.bufRead .frame 95) loaded).pending = .bufRead .frame 95 :: [] ∧
    95 < loaded.params.bufSize .frame ∧ (having (.atlasRead 7 47) loaded).pending = .atlasRead 7 47 :: [] ∧
    7 < loaded.params.cellPx ∧ 47 < loaded.params.width := ⟨rfl, by decide, rfl, by decide, by decide⟩
theorem witness_reserved_reads : (having (.regRead 5) base).pending = .regRead 5 :: [] ∧
    (having (.bufRead .frame 96) base).pending = .bufRead .frame 96 :: [] ∧ base.params.bufSize .frame ≤ 96 ∧
    (having (.atlasRead 8 0) base).pending = .atlasRead 8 0 :: [] ∧
    (having (.atlasRead 0 48) base).pending = .atlasRead 0 48 :: [] ∧ base.params.width ≤ 48 :=
  ⟨rfl, rfl, by decide, rfl, rfl, by decide⟩
theorem witness_faults_precise : (having (.cmd 0x05000000#32) base).pending = .cmd 0x05000000#32 :: [] ∧
    ∃ t, step (having (.cmd 0x05000000#32) base) = .next t ∧ t.status = 0x21#8 := ⟨rfl, _, rfl, rfl⟩
/-- Each clause of R107 at its boundary: the last accepted and the first refused value. -/
theorem witness_invalid_input : loaded.stringFits ∧ loaded.accepts (.wstr 16#16) = true ∧
    loaded.params.cellPx * (loaded.slen.toNat - 1) < (17#16 : Half).toNat ∧ (cursorAt 16#16 0#1).accepts .wcur = true ∧
    loaded.params.cellPx * ((cursorAt 17#16 0#1).slen.toNat - 1) < (cursorAt 17#16 0#1).ticker.toNat ∧
    base.slen.toNat = 0 ∧ loaded.accepts .tick = true ∧ loaded.accepts (.slen 256#16) = true ∧
    loaded.params.strMax < (257#16 : Half).toNat ∧ loaded.accepts (.schr 255#16 0#8) = true ∧
    loaded.params.strMax ≤ (256#16 : Half).toNat :=
  ⟨loaded_fits, by decide⟩
theorem witness_oversized : ¬ ({ loaded with slen := 257#16 } : State).stringFits := by
  unfold State.stringFits; decide
theorem witness_glyph_range : (48 : Int) ≤ 48 ∧ (49 : Int) ≤ 48 + fontT.width / fontT.cellB - 1 ∧
    ¬ ((48 : Int) ≤ 47) ∧
    ¬ ((50 : Int) ≤ 48 + fontT.width / fontT.cellB - 1) ∧ fontT.fcc = 48 := by decide
theorem witness_out_of_range : gidx fontT 57 = 0 ∧ gidx base.params (57#8 : Byte).toNat = 0 := by decide
theorem witness_font_ok : (match configure Config.sizes .reverse 255 (List.replicate 16 (List.replicate 24 255)) with
    | .ok p => p.width == 24
    | .error _ => false) = true := by decide
theorem witness_font_refused : (match configure Config.sizes .reverse 48 (List.replicate 8 (List.replicate 25 0)) with
    | .ok _ => false
    | .error e => e == .fontConfiguration) = true := by decide
theorem witness_pack_length : (List.replicate 12 (0#8 : Byte)).length = 6 * 2 := by decide
theorem witness_pack_pair : [0x12#8, 0x34#8, 0x56#8, 0x78#8, 0x9A#8, (0xBC#8 : Byte)][6 * 0 + 5]? = some 0xBC#8 := by
  decide
theorem witness_pack_nibbles : [(0x1F#8 : Byte)].map highNibble = [(0x10#8 : Byte)].map highNibble := by decide
theorem witness_pack_refused : (List.replicate 11 (0#8 : Byte)).length % 6 ≠ 0 ∧
    (List.replicate 12 (0#8 : Byte)).length % 6 = 0 := by decide
theorem witness_frame_rows : base.params.emitOrder = .reverse := rfl
theorem witness_string_window : 1 ≤ [48#8, 49#8, (48#8 : Byte)].length ∧
    16 ≤ fontT.cellPx * ([48#8, 49#8, (48#8 : Byte)].length - 1) ∧
    15 + 1 ≤ fontT.cellPx * ([48#8, 49#8, (48#8 : Byte)].length - 1) := by
  decide
theorem witness_string_range : ([] : List Byte).length = 0 ∧
    ((-1 : Int) < 0 ∨ (-1 : Int) > fontT.cellPx * (([48#8, (49#8 : Byte)].length : Int) - 1)) ∧
    ((9 : Int) < 0 ∨ (9 : Int) > fontT.cellPx * (([48#8, (49#8 : Byte)].length : Int) - 1)) ∧
    (8 : Int) ≤ fontT.cellPx * (([48#8, (49#8 : Byte)].length : Int) - 1) := by decide
theorem witness_boundary : [48#8, (49#8 : Byte)][1]? = some 49#8 ∧ loaded.stringFits ∧ 2 < loaded.slen.toNat :=
  ⟨by decide, loaded_fits, by decide⟩
theorem witness_idempotent : ∃ t, exec (.wchr 49#8) base = .next t := ⟨_, rfl⟩
theorem witness_wstr : loaded.stringFits ∧
    ¬ (loaded.slen.toNat = 0 ∨ loaded.params.cellPx * (loaded.slen.toNat - 1) < (16#16 : Half).toNat) ∧
    (loaded.slen.toNat = 0 ∨ loaded.params.cellPx * (loaded.slen.toNat - 1) < (17#16 : Half).toNat) :=
  ⟨loaded_fits, by decide⟩
theorem witness_wcur : (cursorAt 16#16 1#1).stringFits ∧
    ¬ ((cursorAt 16#16 1#1).slen.toNat = 0 ∨
      loaded.params.cellPx * ((cursorAt 16#16 1#1).slen.toNat - 1) < (cursorAt 16#16 1#1).ticker.toNat) :=
  ⟨loaded_fits, by decide⟩
theorem witness_wcur_after_tick : loaded.stringFits ∧ loaded.slen.toNat ≠ 0 ∧ ∃ t, exec .tick loaded = .next t :=
  ⟨loaded_fits, by decide, _, rfl⟩
theorem witness_pseudo : [48#8, (49#8 : Byte)].length < 65536 ∧ [48#8, (49#8 : Byte)][1]? = some 49#8 := by decide
theorem witness_beyond_length : (∀ a, a < base.slen.toNat →
      ({ base with str := [(0, 7#8)] } : State).byte .str a = base.byte .str a) ∧
    ∃ t, exec .wcur base = .next t :=
  ⟨fun _ h => absurd h (Nat.not_lt_zero _), _, rfl⟩
/-- The same on a non-empty string: an entry beyond SLEN differs, the entries of the string do not. -/
theorem witness_beyond_length_loaded :
    ∀ a, a < loaded.slen.toNat → ({ loaded with str := loaded.str ++ [(3, 7#8)] } : State).byte .str a =
      loaded.byte .str a := by decide
theorem witness_tick : loaded.stringFits ∧ ¬ loaded.slen.toNat = 0 ∧ base.slen.toNat = 0 := ⟨loaded_fits, by decide⟩
theorem witness_bounce : loaded.stringFits ∧ loaded.slen.toNat ≠ 0 ∧ (∃ t, exec .tick loaded = .next t) ∧
    ∃ t, exec .rtik loaded = .next t := ⟨loaded_fits, by decide, ⟨_, rfl⟩, ⟨_, rfl⟩⟩
theorem witness_above_bound : ({ cursorAt 9#16 1#1 with slen := 2#16 } : State).stringFits ∧
    loaded.params.cellPx * (({ cursorAt 9#16 1#1 with slen := 2#16 } : State).slen.toNat - 1) <
      (cursorAt 9#16 1#1).ticker.toNat := by
  constructor
  · unfold State.stringFits; decide
  · decide
theorem witness_hazard : 1 ≤ (2#16 : Half).toNat ∧ (2#16 : Half).toNat ≤ loaded.params.strMax ∧
    loaded.params.cellPx * ((2#16 : Half).toNat - 1) < (cursorAt 12#16 0#1).ticker.toNat ∧
    ∃ t, exec (.slen 2#16) (cursorAt 12#16 0#1) = .next t := ⟨by decide, by decide, by decide, _, rfl⟩
theorem witness_direction : Instr.wcur ≠ .tick ∧ ∃ t, exec .wcur loaded = .next t := ⟨by decide, _, rfl⟩
theorem witness_slen :
    loaded.params.strMax < (257#16 : Half).toNat ∧ ¬ loaded.params.strMax < (256#16 : Half).toNat := by decide
theorem witness_schr :
    loaded.params.strMax ≤ (256#16 : Half).toNat ∧ ¬ loaded.params.strMax ≤ (255#16 : Half).toNat := by decide
theorem witness_access_table : ∃ t, exec (.schr 255#16 1#8) loaded = .next t := ⟨_, rfl⟩

end Sys2Proof.Tests
end

section
/-! SUPPORT. What a command and a step can do, said once: a relation between a state and its next one for each, that holds
whenever `exec` or `step` answers a next state. With it, the induction over a run. -/

namespace Sys2Proof.Machine

/-- At a column inside the string the windower answers a window (R80). -/
theorem forString_legal (p : Params) {str : List Byte} {k : Nat} (hn : str.length ≠ 0)
    (hk : k ≤ p.cellPx * (str.length - 1)) : ∃ x, forString p str k = .ok x := by
  obtain ⟨h₀, h₁⟩ := p.chars_inside (Nat.one_le_iff_ne_zero.mpr hn) hk
  have hcol : ¬ ((k : Int) < 0 ∨ (k : Int) > p.cellPx * ((str.length : Int) - 1)) := by
    have : ((k : Nat) : Int) ≤ ((p.cellPx * (str.length - 1) : Nat) : Int) := Int.ofNat_le.mpr hk
    rw [Nat.cast_mul, Nat.cast_sub (by omega), Nat.cast_one] at this
    omega
  rw [forString, if_neg hn, if_neg hcol, Int.toNat_natCast, List.getElem?_eq_getElem h₀,
    List.getElem?_eq_getElem h₁]
  exact ⟨_, rfl⟩

/-- What WSTR and WCUR can do (R77, R79): on a string that fits the buffer, the fault of an empty string or of a column
past the last character, or the window of the column. -/
theorem windowString_next {s t : State} {k : Nat} {w : Word} (h : windowString k w s = .next t) :
    s.stringFits ∧
      ((s.slen.toNat = 0 ∨ s.params.cellPx * (s.slen.toNat - 1) < k) ∧ t = s.raise .invalidInput w ∨
        ∃ x, forString s.params s.characters k = .ok x ∧ t = s.memWrite .win 0 x) := by
  by_cases hfit : s.stringFits
  · refine ⟨hfit, ?_⟩
    rw [windowString_fits hfit] at h
    obtain herr | ⟨_, _, _, hok, -⟩ := forString_cases s.params s.characters k
    · refine .inl ⟨?_, by rw [herr] at h; cases h; rfl⟩
      by_contra hlegal
      obtain ⟨hn, hk⟩ := not_or.mp hlegal
      obtain ⟨x, hx⟩ := forString_legal s.params (str := s.characters) (k := k) (by simpa using hn)
        (by simpa using hk)
      rw [herr] at hx
      cases hx
    · exact .inr ⟨_, hok, by rw [hok] at h; cases h; rfl⟩
  · rw [windowString_overflow hfit] at h
    cases h

/-- The next states of a command on a block that is not halted (R54): the fault of R107 on the command's own conditions, or
the command's writes. -/
inductive ExecEffect (s : State) : Instr → State → Prop
  | fault (i : Instr) (h : s.accepts i = false) : ExecEffect s i (s.raise .invalidInput (encode i))
  | pack (f : List Byte)
      (h : pack s.params.emitOrder ((List.range s.params.winB).map (s.byte .win)) = .ok f) :
      ExecEffect s .pack ((s.memWrite .frame 0 f).emit f)
  | wchr (code : Byte) : ExecEffect s (.wchr code) (s.memWrite .win 0 (forChar s.params code.toNat))
  | wstr (k : Half) (x : List Byte) (hfit : s.stringFits)
      (h : forString s.params s.characters k.toNat = .ok x) :
      ExecEffect s (.wstr k) (s.memWrite .win 0 x)
  | wcur (x : List Byte) (hfit : s.stringFits)
      (h : forString s.params s.characters s.ticker.toNat = .ok x) :
      ExecEffect s .wcur (s.memWrite .win 0 x)
  | tick (h : s.slen ≠ 0#16) :
      ExecEffect s .tick ((s.setTicker (tickNext s.params s.ticker.toNat s.delta s.slen.toNat).1).setDelta
        (tickNext s.params s.ticker.toNat s.delta s.slen.toNat).2)
  | rtik : ExecEffect s .rtik ((s.setTicker 0).setDelta 1)
  | slen (n : Half) (h : n.toNat ≤ s.params.strMax) : ExecEffect s (.slen n) (s.setSlen n)
  | schr (idx : Half) (code : Byte) (h : idx.toNat < s.params.strMax) :
      ExecEffect s (.schr idx code) (s.memWrite .str idx.toNat [code])

/-- Whatever next state a command answers is one of its effects. -/
theorem exec_effect {i : Instr} {s t : State} (h : exec i s = .next t) : ExecEffect s i t := by
  cases i with
  | pack =>
    obtain ⟨q, hq, -⟩ := s.params.exists_pairs
    obtain ⟨f, hf, -⟩ := pack_ok s.params.emitOrder q ((List.range s.params.winB).map (s.byte .win))
      (by simpa using hq)
    rw [exec_pack hf] at h
    cases h
    exact .pack f hf
  | wchr code =>
    rw [exec_wchr] at h
    cases h
    exact .wchr code
  | wstr k =>
    obtain ⟨hfit, ⟨hbad, rfl⟩ | ⟨x, hx, rfl⟩⟩ := windowString_next ((exec_wstr s k).symm.trans h)
    · exact .fault _ (by simp only [State.accepts, Bool.and_eq_false_iff, decide_eq_false_iff_not]; omega)
    · exact .wstr k x hfit hx
  | wcur =>
    obtain ⟨hfit, ⟨hbad, rfl⟩ | ⟨x, hx, rfl⟩⟩ := windowString_next ((exec_wcur s).symm.trans h)
    · exact .fault _ (by simp only [State.accepts, Bool.and_eq_false_iff, decide_eq_false_iff_not]; omega)
    · exact .wcur x hfit hx
  | tick =>
    by_cases hn : s.slen = 0#16
    · rw [exec_tick_empty hn] at h
      cases h
      exact .fault _ (by simp [State.accepts, hn])
    · rw [exec_tick hn] at h
      cases h
      exact .tick hn
  | rtik =>
    rw [exec_rtik] at h
    cases h
    exact .rtik
  | slen n =>
    by_cases hn : n.toNat ≤ s.params.strMax
    · rw [exec_slen hn] at h
      cases h
      exact .slen n hn
    · rw [exec_slen_long (Nat.lt_of_not_le hn)] at h
      cases h
      exact .fault _ (by simpa [State.accepts] using hn)
  | schr idx code =>
    by_cases hi : idx.toNat < s.params.strMax
    · rw [exec_schr hi] at h
      cases h
      exact .schr idx code hi
    · rw [exec_schr_outside (Nat.le_of_not_lt hi)] at h
      cases h
      exact .fault _ (by simpa [State.accepts] using hi)

theorem serveRegRead_next {n : Nat} {s t : State} (h : serveRegRead n s = .next t) :
    ∃ v, registerValue s n = some v ∧ t = s.answer (.reg v) := by
  rw [serveRegRead] at h
  split at h
  · next v hv => cases h; exact ⟨v, hv, rfl⟩
  · cases h

theorem serveAtlasRead_next {r b : Nat} {s t : State} (h : serveAtlasRead r b s = .next t) :
    ∃ v, atlasRead s.params r b 1 = [v] ∧ t = s.answer (.byte v) := by
  rw [serveAtlasRead] at h
  split at h
  · next v hv => cases h; exact ⟨v, hv, rfl⟩
  · cases h

theorem serveBufRead_next {b : Buf} {i : Nat} {s t : State} (h : serveBufRead b i s = .next t) :
    i < s.params.bufSize b ∧ t = s.answer (.byte (s.byte b i)) := by
  rw [serveBufRead] at h
  by_cases hi : i + 1 ≤ s.params.bufSize b
  · rw [memRead_inside hi] at h
    cases h
    exact ⟨hi, rfl⟩
  · rw [memRead_outside hi] at h
    cases h

/-- The next states of a step (R39): the idle step, and one transaction of the host taken from its list. -/
inductive StepEffect (s : State) : State → Prop
  | idle (hp : s.pending = []) : StepEffect s s
  | ignored (w : Word) (rest : List HostTxn) (hp : s.pending = .cmd w :: rest) (hh : s.halted = true) :
      StepEffect s (s.setPending rest).advance
  | illegal (w : Word) (rest : List HostTxn) (why : Illegal) (hp : s.pending = .cmd w :: rest)
      (hh : s.halted = false) (hd : decode w = .illegal why) :
      StepEffect s ((s.setPending rest).advance.raise .illegalCommand w)
  | command (w : Word) (rest : List HostTxn) (i : Instr) (t : State) (hp : s.pending = .cmd w :: rest)
      (hh : s.halted = false) (hd : decode w = .command i)
      (he : ExecEffect (s.setPending rest).advance i t) : StepEffect s t
  | regRead (n : Nat) (rest : List HostTxn) (v : Word) (hp : s.pending = .regRead n :: rest)
      (hv : registerValue s n = some v) : StepEffect s ((s.setPending rest).answer (.reg v))
  | atlasRead (r b : Nat) (rest : List HostTxn) (v : Byte) (hp : s.pending = .atlasRead r b :: rest)
      (hv : atlasRead s.params r b 1 = [v]) : StepEffect s ((s.setPending rest).answer (.byte v))
  | bufRead (b : Buf) (i : Nat) (rest : List HostTxn) (hp : s.pending = .bufRead b i :: rest)
      (hi : i < s.params.bufSize b) : StepEffect s ((s.setPending rest).answer (.byte (s.byte b i)))
  | reset (rest : List HostTxn) (hp : s.pending = .reset :: rest) :
      StepEffect s (s.setPending rest).blockReset

/-- The step that takes a command word: ignored, illegal or executed, in the order of the tests of R111. -/
theorem serveCommand_effect {s t : State} {w : Word} {rest : List HostTxn} (hp : s.pending = .cmd w :: rest)
    (h : serveCommand w (s.setPending rest) = .next t) : StepEffect s t := by
  cases hh : s.halted with
  | true =>
    rw [serveCommand_halted (by simpa using hh)] at h
    cases h
    exact .ignored w rest hp hh
  | false =>
    cases hd : decode w with
    | illegal why =>
      rw [serveCommand_illegal (by simpa using hh) hd] at h
      cases h
      exact .illegal w rest why hp hh hd
    | command i =>
      rw [serveCommand_command (by simpa using hh) hd] at h
      exact .command w rest i t hp hh hd (exec_effect h)

/-- Whatever next state a step answers is one of its effects. -/
theorem step_effect {s t : State} (h : step s = .next t) : StepEffect s t := by
  cases hp : s.pending with
  | nil =>
    rw [step_idle hp] at h
    cases h
    exact .idle hp
  | cons x rest =>
    rw [step_pending hp] at h
    cases x with
    | cmd w => exact serveCommand_effect hp h
    | regRead n =>
      obtain ⟨v, hv, rfl⟩ := serveRegRead_next h
      exact .regRead n rest v hp hv
    | atlasRead r b =>
      obtain ⟨v, hv, rfl⟩ := serveAtlasRead_next h
      exact .atlasRead r b rest v hp hv
    | bufRead b i =>
      obtain ⟨hi, rfl⟩ := serveBufRead_next h
      rw [byte_setPending]
      exact .bufRead b i rest hp hi
    | reset =>
      cases h
      exact .reset rest hp

/-- What every step keeps, every run keeps. -/
theorem run_keeps {P : State → Prop} (hstep : ∀ s t, P s → step s = .next t → P t) {n : Nat} {s t : State}
    (h : Host.Core.run core n s = .next t) (hs : P s) : P t := by
  induction n generalizing s with
  | zero => cases h; exact hs
  | succ n ih =>
    obtain ⟨s', hs', hrun⟩ := run_succ_next h
    exact ih hrun (hstep s s' hs hs')

end Sys2Proof.Machine
end

section
/-! The parameters of R5: how they are related in every state, and that no step changes them (00_scope.md). -/

namespace Sys2Proof.Machine

/-- Every named update of a command leaves the parameters alone. -/
theorem ExecEffect.params_eq {s t : State} {i : Instr} (h : ExecEffect s i t) : t.params = s.params := by
  cases h <;> simp

/-- So does every transaction, the reset event among them (R25, R120). -/
theorem StepEffect.params_eq {s t : State} (h : StepEffect s t) : t.params = s.params := by
  cases h with
  | command w rest i t hp hh hd he => simpa using he.params_eq
  | _ => simp

/-- The window is two frames and a whole number of pixel pairs (R36). -/
theorem winB_pairs (z : Sizes) : 2 * z.frameB = z.winB ∧ z.winB % 6 = 0 := by
  obtain ⟨q, hwin, hframe⟩ := z.exists_pairs
  omega

/-- Settles O11: each effect of a step is made of named updates, none of which writes the parameters. -/
theorem parametersNeverChange : Obligations.ParametersNeverChange :=
  fun _ _ h => (step_effect h).params_eq

/-- Settles O53: the values at reset are those of `Config.sizes`, the relations are carried by `Params`, and a run keeps
what every step keeps. -/
theorem parameterValues : Obligations.ParameterValues := by
  refine ⟨⟨rfl, rfl, rfl, rfl, rfl, rfl, rfl⟩, fun s => ?_, fun txns n t h => ?_⟩
  · obtain ⟨hframe, hpairs⟩ := winB_pairs s.params.toSizes
    exact ⟨s.params.cellB_eq, s.params.winB_eq, hframe, hpairs, s.params.width_mod, s.params.width_min,
      s.params.rows_count, s.params.rows_width, s.params.fcc_code⟩
  · exact run_keeps (P := fun u => u.params = State.reset.params)
      (fun u v hu huv => (parametersNeverChange u v huv).trans hu) h rfl

end Sys2Proof.Machine
end

section
/-! How many bytes the pure functions of the window and the quantizer give (20_memory.md R32, 41_pixel_packer.md R66,
42_glyph_window.md R76, R78). -/

namespace Sys2Proof.Machine

/-- The cell at the glyph index lies inside the row (R60). -/
theorem gidx_inside (p : Params) (code : Int) : gidx p code + p.cellB ≤ p.width := by
  have := p.width_min
  rw [gidx_eq]
  split <;> omega

theorem forChar_length (p : Params) (code : Int) : (forChar p code).length = p.winB := by
  rw [forChar, flatMap_range_length _ p.cellB _ fun r hr => atlasRead_length p hr (gidx_inside p code),
    p.rows_cellB]

/-- The last `CELL_PX - shift` pixels of one cell and the first `shift` of another are as many as a cell row has. -/
theorem windowRow_length (p : Params) {col0 col1 shift r : Nat} (hr : r < p.cellPx) (hs : shift ≤ p.cellPx)
    (h₀ : col0 + p.cellB ≤ p.width) (h₁ : col1 + p.cellB ≤ p.width) :
    (windowRow p col0 col1 shift r).length = p.cellB := by
  have hB := p.cellB_eq
  rw [windowRow, List.length_append, atlasRead_length p hr (by omega), atlasRead_length p hr (by omega)]
  omega

/-- The window of a string is made of the rows of two glyph cells (R78). -/
theorem forString_ok {p : Params} {str x : List Byte} {k : Int} (h : forString p str k = .ok x) :
    ∃ (code0 code1 : Int) (shift : Nat), shift < p.cellPx ∧
      x = windowRows p (gidx p code0) (gidx p code1) shift := by
  unfold forString at h
  split at h
  · cases h
  · split at h
    · cases h
    · split at h
      · cases h
        exact ⟨_, _, _, Nat.mod_lt _ p.cell_pos, rfl⟩
      · cases h

theorem forString_length {p : Params} {str x : List Byte} {k : Int} (h : forString p str k = .ok x) :
    x.length = p.winB := by
  obtain ⟨code0, code1, shift, hs, rfl⟩ := forString_ok h
  rw [windowRows, flatMap_range_length _ p.cellB _ fun r hr =>
    windowRow_length p hr hs.le (gidx_inside p code0) (gidx_inside p code1), p.rows_cellB]

/-- A window packs to a frame (R66). -/
theorem pack_window_length (z : Sizes) {order : EmitOrder} {x f : List Byte} (hx : x.length = z.winB)
    (h : pack order x = .ok f) : f.length = z.frameB := by
  obtain ⟨q, hwin, hframe⟩ := z.exists_pairs
  obtain ⟨out, hout, hlen⟩ := pack_ok order q x (hx.trans hwin)
  obtain rfl : out = f := by
    rw [hout] at h
    cases h
    rfl
  rw [hlen, hframe]

/-- A tick leaves the cursor between 0 and the upper bound of the string (R91, R94). -/
theorem tickNext_range (p : Params) (t d : Int) {n : Int} (hn : 1 ≤ n) :
    0 ≤ (tickNext p t d n).1 ∧ (tickNext p t d n).1 ≤ (n - 1) * p.cellPx := by
  have hbound : 0 ≤ (n - 1) * (p.cellPx : Int) := Int.mul_nonneg (by omega) (by omega)
  rw [tickNext_eq]
  split
  · exact ⟨hbound, le_rfl⟩
  · split
    · exact ⟨le_rfl, hbound⟩
    · constructor <;> dsimp only <;> omega

end Sys2Proof.Machine
end

section
/-! The invariants of the machine (10_state.md R23): each named update keeps them under its own condition, so every
effect of a command and of a step does, and the reset state meets them. -/

namespace Sys2Proof.Machine

namespace State.Inv

variable {s : State} (h : s.Inv)
include h

theorem fits : s.stringFits := h.1

theorem setPending (rest : List HostTxn) : (s.setPending rest).Inv := h

theorem advance : s.advance.Inv := h

theorem answer (r : Reply) : (s.answer r).Inv := h

theorem setDelta (d : Int) : (s.setDelta d).Inv := h

/-- The block raises two of the four causes (R106). -/
theorem raise {c : Cause} (hc : c = .invalidInput ∨ c = .illegalCommand) (w : Word) : (s.raise c w).Inv := by
  obtain ⟨hfit, hticker, -, -, hstr, hwin, hframe, hout⟩ := h
  have hstatus : faultStatus c = 0x00#8 ∨ faultStatus c = 0x21#8 ∨ faultStatus c = 0x41#8 := by
    obtain rfl | rfl := hc
    · exact .inr (.inl faultStatus_invalidInput)
    · exact .inr (.inr faultStatus_illegalCommand)
  exact ⟨hfit, hticker, hstatus, by simp, hstr, hwin, hframe, hout⟩

theorem setSlen {n : Half} (hn : n.toNat ≤ s.params.strMax) : (s.setSlen n).Inv := by
  obtain ⟨-, hrest⟩ := h
  exact ⟨hn, hrest⟩

theorem setTicker {t : Int} (h₀ : 0 ≤ t) (h₁ : t ≤ (s.params.cellPx * (s.params.strMax - 1) : Nat)) :
    (s.setTicker t).Inv := by
  obtain ⟨hfit, -, hrest⟩ := h
  have hrange := s.params.cursor_fits
  have hval := setTicker_toNat (s := s) h₀ (by omega)
  exact ⟨hfit, by rw [setTicker_params]; omega, hrest⟩

/-- A write inside its space (R34). -/
theorem memWrite {b : Buf} {i : Nat} {v : List Byte} (hin : i + v.length ≤ s.params.bufSize b) :
    (s.memWrite b i v).Inv := by
  obtain ⟨hfit, hticker, hstatus, hfcmd, hstr, hwin, hframe, hout⟩ := h
  cases b with
  | str => exact ⟨hfit, hticker, hstatus, hfcmd, wf_splice hstr hin, hwin, hframe, hout⟩
  | win => exact ⟨hfit, hticker, hstatus, hfcmd, hstr, wf_splice hwin hin, hframe, hout⟩
  | frame => exact ⟨hfit, hticker, hstatus, hfcmd, hstr, hwin, wf_splice hframe hin, hout⟩

theorem emit {f : List Byte} (hf : f.length = s.params.frameB) : (s.emit f).Inv := by
  obtain ⟨hfit, hticker, hstatus, hfcmd, hstr, hwin, hframe, hout⟩ := h
  refine ⟨hfit, hticker, hstatus, hfcmd, hstr, hwin, hframe, fun g hg => ?_⟩
  obtain hg | hg := List.mem_append.mp hg
  · exact hout g hg
  · rw [List.mem_singleton.mp hg]
    exact hf

/-- The cursor of a tick on a string that fits stays in the range of R23, since its bound is one of such a string. -/
theorem tick (hne : s.slen ≠ 0#16) (d : Int) :
    (s.setTicker (tickNext s.params s.ticker.toNat d s.slen.toNat).1).Inv := by
  have hfit : s.slen.toNat ≤ s.params.strMax := h.fits
  have hpos : 1 ≤ s.slen.toNat := Nat.one_le_iff_ne_zero.mpr fun e => hne (BitVec.eq_of_toNat_eq e)
  obtain ⟨h₀, h₁⟩ := tickNext_range s.params s.ticker.toNat d (n := s.slen.toNat) (by omega)
  refine h.setTicker h₀ (h₁.trans ?_)
  have hbound : (s.slen.toNat - 1) * s.params.cellPx ≤ s.params.cellPx * (s.params.strMax - 1) := by
    rw [Nat.mul_comm]
    exact Nat.mul_le_mul_left _ (by omega)
  zify [hpos] at hbound ⊢
  exact hbound

end State.Inv

/-- What R25 sets meets R23, whatever the parameters. -/
theorem blockReset_inv (s : State) : s.blockReset.Inv :=
  ⟨Nat.zero_le _, Nat.zero_le _, .inl rfl, fun _ => rfl, rfl, rfl, rfl, by simp⟩

/-- The writes of each command are inside their spaces and ranges. -/
theorem ExecEffect.inv {s t : State} {i : Instr} (he : ExecEffect s i t) (h : s.Inv) : t.Inv := by
  cases he with
  | fault i hi => exact h.raise (.inl rfl) _
  | pack f hf =>
    have hlen : f.length = s.params.frameB := pack_window_length _ (by simp) hf
    exact (h.memWrite (by simp [hlen])).emit hlen
  | wchr code => exact h.memWrite (by simp [forChar_length])
  | wstr k x hfit hx => exact h.memWrite (by simp [forString_length hx])
  | wcur x hfit hx => exact h.memWrite (by simp [forString_length hx])
  | tick hne => exact (h.tick hne _).setDelta _
  | rtik => exact (h.setTicker le_rfl (by omega)).setDelta _
  | slen n hn => exact h.setSlen hn
  | schr idx code hidx => exact h.memWrite (by simpa using hidx)

theorem StepEffect.inv {s t : State} (hstep : StepEffect s t) (h : s.Inv) : t.Inv := by
  cases hstep with
  | idle hp => exact h
  | ignored w rest hp hh => exact (h.setPending rest).advance
  | illegal w rest why hp hh hd => exact (h.setPending rest).advance.raise (.inr rfl) w
  | command w rest i t hp hh hd he => exact he.inv (h.setPending rest).advance
  | regRead n rest v hp hv => exact (h.setPending rest).answer _
  | atlasRead r b rest v hp hv => exact (h.setPending rest).answer _
  | bufRead b i rest hp hi => exact (h.setPending rest).answer _
  | reset rest hp => exact blockReset_inv _

/-- Settles O8: every effect of a step is made of updates that keep the invariants under the effect's own conditions. -/
theorem stepKeepsInvariant : Obligations.StepKeepsInvariant :=
  fun _ _ hs hstep => (step_effect hstep).inv hs

/-- Settles O7: State.reset has the values of R25, and FRAME is unwritten while OUT is empty. -/
theorem resetMeetsInvariants : Obligations.ResetMeetsInvariants :=
  ⟨⟨Nat.zero_le _, Nat.zero_le _, .inl rfl, fun _ => rfl, rfl, rfl, rfl, by simp [State.reset]⟩, rfl⟩

end Sys2Proof.Machine
end

section
/-! The access table (10_state.md R22), a column at a time: what the effect of a command leaves unchanged. -/

namespace Sys2Proof.Machine

/-- A write to one buffer leaves the bytes of the others (R34). -/
theorem byte_memWrite_of_ne {b b' : Buf} (hb : b' ≠ b) (s : State) (i : Nat) (v : List Byte) :
    (s.memWrite b i v).byte b' = s.byte b' := by
  funext a
  rw [byte_memWrite, dif_neg fun h => hb h.1]

/-- A write of a whole buffer is what the buffer then holds (R34). -/
theorem map_byte_memWrite (s : State) (b : Buf) (v : List Byte) :
    (List.range v.length).map ((s.memWrite b 0 v).byte b) = v := by
  refine List.ext_getElem (by simp) fun a _ ha => ?_
  rw [List.getElem_map, List.getElem_range, byte_memWrite, dif_pos ⟨rfl, Nat.zero_le a, ha⟩]
  rfl

namespace ExecEffect

variable {s t : State} {i : Instr} (h : ExecEffect s i t)
include h

theorem hostSide_eq : sameHostSide s t := by
  cases h <;> exact ⟨rfl, rfl, rfl, rfl⟩

/-- Fault entry alone writes STATUS and FCMD, and PACK, WCHR and RTIK have no test to fail (R107). -/
theorem fault_eq : sameFault s t ∨ i ≠ .pack ∧ (∀ c, i ≠ .wchr c) ∧ i ≠ .rtik := by
  cases h with
  | fault i hi => exact .inr (by refine ⟨?_, fun c => ?_, ?_⟩ <;> rintro rfl <;> cases hi)
  | _ => exact .inl ⟨rfl, rfl⟩

theorem slen_eq (hi : ∀ n, i ≠ .slen n) : t.slen = s.slen := by
  cases h with
  | slen n hn => exact absurd rfl (hi n)
  | _ => rfl

theorem dir_eq (htick : i ≠ .tick) (hrtik : i ≠ .rtik) : t.dir = s.dir := by
  cases h with
  | tick hne => exact absurd rfl htick
  | rtik => exact absurd rfl hrtik
  | _ => rfl

theorem cursor_eq (htick : i ≠ .tick) (hrtik : i ≠ .rtik) : sameCursor s t := by
  refine ⟨?_, h.dir_eq htick hrtik⟩
  cases h with
  | tick hne => exact absurd rfl htick
  | rtik => exact absurd rfl hrtik
  | _ => rfl

theorem str_eq (hi : ∀ idx c, i ≠ .schr idx c) : sameBytes .str s t := by
  cases h with
  | schr idx code hidx => exact absurd rfl (hi idx code)
  | _ => exact fun _ => rfl

theorem frame_eq (hi : i ≠ .pack) : sameBytes .frame s t := by
  cases h with
  | pack f hf => exact absurd rfl hi
  | _ => exact fun _ => rfl

theorem win_eq (hwchr : ∀ c, i ≠ .wchr c) (hwstr : ∀ k, i ≠ .wstr k) (hwcur : i ≠ .wcur) :
    sameBytes .win s t := by
  cases h with
  | wchr code => exact absurd rfl (hwchr code)
  | wstr k x hfit hx => exact absurd rfl (hwstr k)
  | wcur x hfit hx => exact absurd rfl hwcur
  | _ => exact fun _ => rfl

theorem out_eq (hi : i ≠ .pack) : t.out = s.out := by
  cases h with
  | pack f hf => exact absurd rfl hi
  | _ => rfl

end ExecEffect

/-- PACK appends the frame it has written (R21, R65). -/
theorem ExecEffect.out_pack {s t : State} (h : ExecEffect s .pack t) :
    t.out = s.out ++ [(List.range s.params.frameB).map (t.byte .frame)] := by
  cases h with
  | fault _ hi => cases hi
  | pack f hf =>
    have hlen : f.length = s.params.frameB := pack_window_length _ (by simp) hf
    rw [← hlen, byte_emit, map_byte_memWrite]
    rfl

/-- Settles O52: the columns of the access table, for whatever effect the command has. -/
theorem accessTableWrites : Obligations.AccessTableWrites := by
  intro s t i hexec
  have h := exec_effect hexec
  exact ⟨h.params_eq, h.hostSide_eq, h.fault_eq, h.slen_eq, h.cursor_eq, h.str_eq,
    fun hi => ⟨h.frame_eq hi, h.out_eq hi⟩, h.win_eq⟩

/-- Settles O12: only the executed PACK has an effect on OUT, and reset empties it (R21, R24). -/
theorem onlyPackAppendsToOut : Obligations.OnlyPackAppendsToOut := by
  intro s t hstep
  cases step_effect hstep with
  | idle hp => simp [hp]
  | ignored w rest hp hh => simp [hp, hh]
  | illegal w rest why hp hh hd => simp [hp, hd]
  | command w rest i t hp hh hd he =>
    by_cases hi : i = .pack
    · subst hi
      simpa [hp, hh, hd] using he.out_pack
    · simpa [hp, hd, hi] using he.out_eq hi
  | regRead n rest v hp hv => simp [hp]
  | atlasRead r b rest v hp hv => simp [hp]
  | bufRead b i rest hp hi => simp [hp]
  | reset rest hp => simp [hp]

end Sys2Proof.Machine
end

section
/-! Which commands read DELTA (10_state.md R15): every command but TICK and RTIK commutes with a change of it. -/

namespace Sys2Proof.Machine

@[simp] theorem characters_setDelta (s : State) (d : Int) : (s.setDelta d).characters = s.characters := by
  simp [State.characters]

theorem windowString_setDelta {s t : State} {k : Int} {w : Word} (h : windowString k w s = .next t) (d : Int) :
    windowString k w (s.setDelta d) = .next (t.setDelta d) := by
  by_cases hfit : s.stringFits
  · rw [windowString_fits hfit] at h
    rw [windowString_fits (s := s.setDelta d) hfit, setDelta_params, characters_setDelta]
    cases hx : forString s.params s.characters k with
    | error c =>
      rw [hx] at h
      cases h
      rfl
    | ok x =>
      rw [hx] at h
      cases h
      rfl
  · rw [windowString_overflow hfit] at h
    cases h

/-- A command that is neither TICK nor RTIK does the same under any direction, and keeps it. -/
theorem exec_setDelta {s t : State} {i : Instr} (htick : i ≠ .tick) (hrtik : i ≠ .rtik) (h : exec i s = .next t)
    (d : Int) : exec i (s.setDelta d) = .next (t.setDelta d) := by
  cases i with
  | pack =>
    cases exec_effect h with
    | fault _ hi => cases hi
    | pack f hf => exact exec_pack (by simpa using hf)
  | wchr code =>
    rw [exec_wchr] at h ⊢
    cases h
    rfl
  | wstr k => exact windowString_setDelta h d
  | wcur => exact windowString_setDelta h d
  | tick => exact absurd rfl htick
  | rtik => exact absurd rfl hrtik
  | slen n =>
    by_cases hn : n.toNat ≤ s.params.strMax
    · rw [exec_slen hn] at h
      cases h
      exact exec_slen hn
    · have hn := Nat.lt_of_not_le hn
      rw [exec_slen_long hn] at h
      cases h
      exact exec_slen_long hn
  | schr idx code =>
    by_cases hidx : idx.toNat < s.params.strMax
    · rw [exec_schr hidx] at h
      cases h
      exact exec_schr hidx
    · have hidx := Nat.le_of_not_lt hidx
      rw [exec_schr_outside hidx] at h
      cases h
      exact exec_schr_outside hidx

/-- Settles O48: RTIK sets the direction whatever it was, every other command but TICK commutes with a change of it. -/
theorem directionReadByTickOnly : Obligations.DirectionReadByTickOnly := by
  intro s t i d htick h
  refine ⟨fun hrtik => (exec_effect h).dir_eq htick hrtik, ?_⟩
  by_cases hrtik : i = .rtik
  · subst hrtik
    rw [exec_rtik] at h
    cases h
    exact ⟨_, exec_rtik _, rfl⟩
  · exact ⟨_, exec_setDelta htick hrtik h d, rfl⟩

end Sys2Proof.Machine
end

section
/-! The host's port (20_memory.md R38, R39): a command word answers a next state and runs what it decodes to, a register
read answers the register, and the reset event leaves the values of R25. -/

namespace Sys2Proof.Machine

/-- While the string fits its buffer, WSTR and WCUR answer (R77, R79). -/
theorem windowString_answers {s : State} (hfit : s.stringFits) (k : Int) (w : Word) :
    ∃ t, windowString k w s = .next t := by
  rw [windowString_fits hfit]
  cases forString s.params s.characters k with
  | error c => exact ⟨_, rfl⟩
  | ok x => exact ⟨_, rfl⟩

/-- While the string fits its buffer, every command answers a next state (R11). -/
theorem exec_answers {s : State} (hfit : s.stringFits) (i : Instr) : ∃ t, exec i s = .next t := by
  cases i with
  | pack =>
    obtain ⟨q, hq, -⟩ := s.params.exists_pairs
    obtain ⟨f, hf, -⟩ := pack_ok s.params.emitOrder q ((List.range s.params.winB).map (s.byte .win))
      (by simpa using hq)
    exact ⟨_, exec_pack hf⟩
  | wchr code => exact ⟨_, exec_wchr s code⟩
  | wstr k => exact windowString_answers hfit _ _
  | wcur => exact windowString_answers hfit _ _
  | tick =>
    by_cases hn : s.slen = 0#16
    · exact ⟨_, exec_tick_empty hn⟩
    · exact ⟨_, exec_tick hn⟩
  | rtik => exact ⟨_, exec_rtik s⟩
  | slen n =>
    obtain hn | hn := Nat.lt_or_ge s.params.strMax n.toNat
    · exact ⟨_, exec_slen_long hn⟩
    · exact ⟨_, exec_slen hn⟩
  | schr idx code =>
    obtain hidx | hidx := Nat.lt_or_ge idx.toNat s.params.strMax
    · exact ⟨_, exec_schr hidx⟩
    · exact ⟨_, exec_schr_outside hidx⟩

/-- A word that a block which is not halted decodes to a command is executed (R111). -/
theorem step_command {s : State} {w : Word} {rest : List HostTxn} {i : Instr} (hp : s.pending = .cmd w :: rest)
    (hh : s.halted = false) (hd : decode w = .command i) : step s = exec i (s.setPending rest).advance := by
  rw [step_pending hp]
  exact serveCommand_command (by simpa using hh) hd

/-- Settles O10: an ignored or illegal word advances the command index, and a command answers by `exec_answers` and
leaves the host's side alone. -/
theorem everyCommandAnswers : Obligations.EveryCommandAnswers := by
  intro s w rest hinv hp
  cases hh : s.halted with
  | true => exact ⟨_, (step_pending hp).trans (serveCommand_halted (by simpa using hh)), rfl, rfl⟩
  | false =>
    cases hd : decode w with
    | illegal why => exact ⟨_, (step_pending hp).trans (serveCommand_illegal (by simpa using hh) hd), rfl, rfl⟩
    | command i =>
      obtain ⟨t, ht⟩ := exec_answers (s := (s.setPending rest).advance) hinv.fits i
      obtain ⟨hci, -, hpending, -⟩ := (exec_effect ht).hostSide_eq
      exact ⟨t, (step_command hp hh hd).trans ht, hci, hpending⟩

theorem decode_tableWord {nbits w : Nat} {i : Instr} (h : decodeTableWord nbits w = some i) :
    decode (tableWord nbits w) = .command i := by
  rw [decodeTableWord] at h
  split at h
  · next j hj => cases h; exact hj
  · cases h

/-- Settles O13: the second clause is the first on the state that has the table's word as its next transaction. -/
theorem stepRunsDecodedCommand : Obligations.StepRunsDecodedCommand :=
  ⟨fun _ _ _ _ => step_command, fun s nbits w _ hh hd =>
    step_command (s := s.withFetchWord nbits w) (rest := s.pending) rfl hh (decode_tableWord hd)⟩

/-- A read of a register that exists answers its value (R39). -/
theorem step_regRead {s : State} {n : Nat} {rest : List HostTxn} {v : Word} (hp : s.pending = .regRead n :: rest)
    (hv : registerValue s n = some v) : step s = .next ((s.setPending rest).answer (.reg v)) := by
  have hv' : registerValue (s.setPending rest) n = some v := hv
  rw [step_pending hp, serve, serveRegRead, hv']

/-- Settles O16: the five numbers of R22 have the registers' values, STATUS masked (R17). -/
theorem registerReadPort : Obligations.RegisterReadPort := by
  intro s n rest v hp hv
  have hreg : registerValue s n = some v := by
    obtain ⟨rfl, rfl⟩ | ⟨rfl, rfl⟩ | ⟨rfl, rfl⟩ | ⟨rfl, rfl⟩ | ⟨rfl, rfl⟩ := hv <;> rfl
  exact step_regRead hp hreg

/-- Right after a reset no byte of a buffer has been written (R120, U3). -/
theorem byte_blockReset (s : State) (b : Buf) (i : Nat) :
    s.blockReset.byte b i = Config.unspecifiedByte s.blockReset.epoch b i := by
  cases b <;> rfl

theorem byte_reset (b : Buf) (i : Nat) :
    State.reset.byte b i = Config.unspecifiedByte State.reset.epoch b i := by
  cases b <;> rfl

/-- Settles O6: the reset event sets the values of R25, which State.reset has. -/
theorem resetEventValues : Obligations.ResetEventValues := by
  refine ⟨fun s rest hp => ?_, rfl, rfl, rfl, rfl, rfl, rfl, rfl, byte_reset⟩
  exact ⟨(s.setPending rest).blockReset, step_pending hp, rfl, rfl, rfl, rfl, rfl, rfl, rfl, rfl,
    halted_blockReset _, rfl, rfl, byte_blockReset _⟩

end Sys2Proof.Machine
end

section
/-! The font configurations that `configure` accepts (10_state.md R12, R13, U14; log entry 18). -/

namespace Sys2Proof.Machine

/-- The rows an atlas is made of: the first CELL_PX, of one width, a multiple of 3 and at least a cell, every sample a
byte (R12). -/
def AtlasRows (z : Sizes) (rows : List (List Nat)) : Prop :=
  z.cellPx ≤ rows.length ∧
    ∃ w, w % 3 = 0 ∧ z.cellB ≤ w ∧ ∀ row ∈ rows.take z.cellPx, row.length = w ∧ ∀ x ∈ row, x < 256

/-- The samples of an image as bytes (C4). -/
abbrev bytesOfSamples (rows : List (List Nat)) : List (List Byte) :=
  rows.map fun row => row.map (BitVec.ofNat 8)

/-- Samples below 256 are kept by their bytes (C4). -/
theorem bytesOfSamples_toNat {rows : List (List Nat)} (h : ∀ row ∈ rows, ∀ x ∈ row, x < 256) :
    (bytesOfSamples rows).map (fun row => row.map BitVec.toNat) = rows := by
  rw [List.map_map]
  refine (List.map_congr_left fun row hrow => ?_).trans (List.map_id rows)
  rw [Function.comp_apply, List.map_map]
  exact (List.map_congr_left fun x hx => Nat.mod_eq_of_lt (h row hrow x hx)).trans (List.map_id row)

/-- The first row of an image whose rows have one width has that width. -/
theorem headD_length {w : Nat} {rows : List (List Byte)} (hne : 0 < rows.length)
    (h : ∀ row ∈ rows, row.length = w) : (rows.headD []).length = w := by
  cases rows with
  | nil => cases hne
  | cons row rows => exact h row List.mem_cons_self

/-- What `configure` tests of the bytes of an atlas, whose width is that of its first row: rows of samples pass exactly
when they make an atlas. -/
theorem atlasRows_iff (z : Sizes) (rows : List (List Nat)) :
    AtlasRows z rows ↔ (∀ row ∈ rows.take z.cellPx, ∀ x ∈ row, x < 256) ∧
      ((bytesOfSamples (rows.take z.cellPx)).headD []).length % 3 = 0 ∧
      z.cellB ≤ ((bytesOfSamples (rows.take z.cellPx)).headD []).length ∧
      (bytesOfSamples (rows.take z.cellPx)).length = z.cellPx ∧
      ∀ row ∈ bytesOfSamples (rows.take z.cellPx),
        row.length = ((bytesOfSamples (rows.take z.cellPx)).headD []).length := by
  have hpos := z.cell_pos
  have hlen : (bytesOfSamples (rows.take z.cellPx)).length = z.cellPx ↔ z.cellPx ≤ rows.length := by simp
  have hwidths (w : Nat) : (∀ row ∈ bytesOfSamples (rows.take z.cellPx), row.length = w) ↔
      ∀ row ∈ rows.take z.cellPx, row.length = w := by
    simp only [bytesOfSamples, List.forall_mem_map, List.length_map]
  rw [hlen, hwidths]
  constructor
  · rintro ⟨hcount, w, hmod, hmin, hrows⟩
    have hw := headD_length (by omega) ((hwidths w).mpr fun row hrow => (hrows row hrow).1)
    rw [hw]
    exact ⟨fun row hrow => (hrows row hrow).2, hmod, hmin, hcount, fun row hrow => (hrows row hrow).1⟩
  · rintro ⟨hbytes, hmod, hmin, hcount, hrows⟩
    exact ⟨hcount, _, hmod, hmin, fun row hrow => ⟨hrows row hrow, hbytes row hrow⟩⟩

/-- `configure` accepts a code and rows that make an atlas, and refuses everything else by one name. -/
theorem configure_cases (z : Sizes) (order : EmitOrder) (fcc : Nat) (rows : List (List Nat)) :
    (fcc < 2 ^ z.codeW ∧ AtlasRows z rows ∧ ∃ p, configure z order fcc rows = .ok p ∧ p.toSizes = z ∧
      p.emitOrder = order ∧ p.fcc = fcc ∧ p.rows.map (fun row => row.map BitVec.toNat) = rows.take z.cellPx) ∨
    ¬ (fcc < 2 ^ z.codeW ∧ AtlasRows z rows) ∧ configure z order fcc rows = .error .fontConfiguration := by
  rw [atlasRows_iff]
  unfold configure
  dsimp only
  split
  · next hsamples =>
    refine .inr ⟨fun ⟨_, hbytes, _⟩ => hsamples ?_, rfl⟩
    simpa using hbytes
  · next hsamples =>
    have hbytes : ∀ row ∈ rows.take z.cellPx, ∀ x ∈ row, x < 256 := by simpa using hsamples
    split
    · next h =>
      obtain ⟨hfcc, hatlas⟩ := h
      exact .inl ⟨hfcc, ⟨hbytes, hatlas⟩, _, rfl, rfl, rfl, rfl, bytesOfSamples_toNat hbytes⟩
    · next h => exact .inr ⟨fun ⟨hfcc, _, hatlas⟩ => h ⟨hfcc, hatlas⟩, rfl⟩

/-- Settles O25: either case of `configure_cases` decides acceptance, the parameters and the refusal. -/
theorem fontConfigurationChecked : Obligations.FontConfigurationChecked := by
  intro z order fcc rows
  obtain ⟨hfcc, hrows, p, hp, hval⟩ | ⟨hbad, he⟩ := configure_cases z order fcc rows
  · rw [hp]
    refine ⟨⟨fun _ => ⟨hfcc, hrows⟩, fun _ => ⟨p, rfl⟩⟩, fun q hq => ?_, fun e he => by cases he⟩
    cases hq
    exact hval
  · rw [he]
    refine ⟨⟨fun ⟨p, hp⟩ => ?_, fun h => absurd h hbad⟩, fun p hp => ?_, fun e he => ?_⟩
    · cases hp
    · cases hp
    · cases he
      rfl

end Sys2Proof.Machine
end

section
/-! The memory spaces at their bounds (20_memory.md R30, R33, R39): a read of one byte inside a space answers that byte, and
a string longer than its buffer stops WSTR and WCUR (log entry 10). -/

namespace Sys2Proof.Machine

/-- A byte inside a buffer is answered (R39). -/
theorem step_bufRead {s : State} {b : Buf} {i : Nat} {rest : List HostTxn} (hp : s.pending = .bufRead b i :: rest)
    (hi : i < s.params.bufSize b) : step s = .next ((s.setPending rest).answer (.byte (s.byte b i))) := by
  have hread : (s.setPending rest).memRead b i 1 = some [s.byte b i] := by
    rw [memRead_inside (by simpa using hi), byte_setPending]
    rfl
  rw [step_pending hp, serve, serveBufRead, hread]

/-- A byte inside the atlas is read alone: the one of its row (R31, R33). -/
theorem atlasRead_byte (p : Params) {r b : Nat} (hr : r < p.cellPx) (hb : b < p.width) :
    ∃ v, (p.rows[r]?.bind fun row => row[b]?) = some v ∧ atlasRead p r b 1 = [v] := by
  obtain ⟨v, hv⟩ := List.length_eq_one_iff.mp (atlasRead_length p hr hb)
  refine ⟨v, ?_, hv⟩
  have hbyte := atlasRead_getElem? p r b 1 0 Nat.zero_lt_one
  have hrow : r < p.rows.length := by rwa [p.rows_count]
  rw [hv, List.getD_eq_getElem _ _ hrow] at hbyte
  rw [List.getElem?_eq_getElem hrow]
  exact hbyte.symm

/-- A byte that the atlas read finds is answered (R39). -/
theorem step_atlasRead {s : State} {r b : Nat} {rest : List HostTxn} {v : Byte}
    (hp : s.pending = .atlasRead r b :: rest) (hv : atlasRead s.params r b 1 = [v]) :
    step s = .next ((s.setPending rest).answer (.byte v)) := by
  rw [step_pending hp, serve, serveAtlasRead, setPending_params, hv]

/-- Settles O17: inside a buffer the read is `memRead_inside` of one byte, inside the atlas it is `atlasRead_byte`. -/
theorem bufferReadPort : Obligations.BufferReadPort := by
  refine ⟨fun s b i rest hp hi => step_bufRead hp hi, fun s r b rest hp hr hb => ?_⟩
  obtain ⟨v, hrow, hread⟩ := atlasRead_byte s.params hr hb
  exact ⟨v, hrow, step_atlasRead hp hread⟩

/-- Settles O21: both commands are the windower of the current string, which `windowString_overflow` stops. -/
theorem oversizedLengthStops : Obligations.OversizedLengthStops := fun s hlong =>
  ⟨fun k => (exec_wstr s k).trans (windowString_overflow hlong _ _),
    (exec_wcur s).trans (windowString_overflow hlong _ _)⟩

end Sys2Proof.Machine
end

section
/-! Decode opcode by opcode, on the fields of a word (30_encoding.md R46 to R49). -/

namespace Sys2Proof

/-- An opcode is one of the eight, or unassigned (R48). -/
theorem opcode_cases (op : Byte) :
    op = 1#8 ∨ op = 2#8 ∨ op = 3#8 ∨ op = 4#8 ∨ op = 5#8 ∨ op = 6#8 ∨ op = 7#8 ∨ op = 8#8 ∨
      (op.toNat = 0 ∨ 9 ≤ op.toNat) := by
  bv_omega

variable (a : Byte) (imm : Half)

theorem decodeFields_pack : decodeFields ⟨1#8, a, imm⟩ =
    if a = 0#8 ∧ imm = 0#16 then .command .pack else .illegal .nonZeroField := rfl

theorem decodeFields_wchr : decodeFields ⟨2#8, a, imm⟩ =
    if imm = 0#16 then .command (.wchr a) else .illegal .nonZeroField := rfl

theorem decodeFields_wstr : decodeFields ⟨3#8, a, imm⟩ =
    if a = 0#8 then .command (.wstr imm) else .illegal .nonZeroField := rfl

theorem decodeFields_wcur : decodeFields ⟨4#8, a, imm⟩ =
    if a = 0#8 ∧ imm = 0#16 then .command .wcur else .illegal .nonZeroField := rfl

theorem decodeFields_tick : decodeFields ⟨5#8, a, imm⟩ =
    if a = 0#8 ∧ imm = 0#16 then .command .tick else .illegal .nonZeroField := rfl

theorem decodeFields_rtik : decodeFields ⟨6#8, a, imm⟩ =
    if a = 0#8 ∧ imm = 0#16 then .command .rtik else .illegal .nonZeroField := rfl

theorem decodeFields_slen : decodeFields ⟨7#8, a, imm⟩ =
    if a = 0#8 then .command (.slen imm) else .illegal .nonZeroField := rfl

theorem decodeFields_schr : decodeFields ⟨8#8, a, imm⟩ = .command (.schr imm a) := rfl

theorem decodeFields_unassigned {op : Byte} (h : op.toNat = 0 ∨ 9 ≤ op.toNat) :
    decodeFields ⟨op, a, imm⟩ = .illegal .unassignedOpcode := by
  have hne (n : Byte) (hn : 1 ≤ n.toNat ∧ n.toNat ≤ 8) : op ≠ n := by rintro rfl; omega
  simp [decodeFields, hne]

end Sys2Proof
end

section
/-! Decode and encode (30_encoding.md R53): a word decodes to a command exactly when its fields are the command's. -/

namespace Sys2Proof

/-- A test of the unused fields lets the command through exactly when it holds. -/
@[simp] theorem ite_eq_command_iff {P : Prop} [Decidable P] {i j : Instr} {why : Illegal} :
    (if P then Verdict.command i else .illegal why) = .command j ↔ P ∧ i = j := by
  split <;> simp [*]

/-- A test of the unused fields makes the word illegal exactly when it fails. -/
@[simp] theorem exists_ite_eq_illegal_iff {P : Prop} [Decidable P] {i : Instr} {why : Illegal} :
    (∃ r, (if P then Verdict.command i else .illegal why) = .illegal r) ↔ ¬ P := by
  split <;> simp [*]

theorem toNat_eq_zero_iff {n : Nat} {x : BitVec n} : x.toNat = 0 ↔ x = 0#n := by
  rw [← BitVec.toNat_inj, BitVec.toNat_zero]

@[simp] theorem decodeFields_encodeFields (i : Instr) : decodeFields (encodeFields i) = .command i := by
  cases i <;> rfl

/-- The fields decode to a command only as that command's own: the test of the unused fields has found them zero. -/
theorem encodeFields_of_decodeFields {f : Fields} {i : Instr} (h : decodeFields f = .command i) :
    encodeFields i = f := by
  obtain ⟨op, a, imm⟩ := f
  obtain rfl | rfl | rfl | rfl | rfl | rfl | rfl | rfl | hop := opcode_cases op
  · obtain ⟨⟨rfl, rfl⟩, rfl⟩ := ite_eq_command_iff.mp ((decodeFields_pack a imm).symm.trans h)
    rfl
  · obtain ⟨rfl, rfl⟩ := ite_eq_command_iff.mp ((decodeFields_wchr a imm).symm.trans h)
    rfl
  · obtain ⟨rfl, rfl⟩ := ite_eq_command_iff.mp ((decodeFields_wstr a imm).symm.trans h)
    rfl
  · obtain ⟨⟨rfl, rfl⟩, rfl⟩ := ite_eq_command_iff.mp ((decodeFields_wcur a imm).symm.trans h)
    rfl
  · obtain ⟨⟨rfl, rfl⟩, rfl⟩ := ite_eq_command_iff.mp ((decodeFields_tick a imm).symm.trans h)
    rfl
  · obtain ⟨⟨rfl, rfl⟩, rfl⟩ := ite_eq_command_iff.mp ((decodeFields_rtik a imm).symm.trans h)
    rfl
  · obtain ⟨rfl, rfl⟩ := ite_eq_command_iff.mp ((decodeFields_slen a imm).symm.trans h)
    rfl
  · cases (decodeFields_schr a imm).symm.trans h
    rfl
  · cases (decodeFields_unassigned a imm hop).symm.trans h

@[simp] theorem decode_wordOf (f : Fields) : decode (wordOf f) = decodeFields f := by
  rw [decode, fieldsOf_wordOf]

@[simp] theorem decode_encode (i : Instr) : decode (encode i) = .command i := by
  rw [encode, decode_wordOf, decodeFields_encodeFields]

theorem decode_eq_command_iff {w : Word} {i : Instr} : decode w = .command i ↔ fieldsOf w = encodeFields i := by
  refine ⟨fun h => (encodeFields_of_decodeFields h).symm, fun h => ?_⟩
  rw [decode, h, decodeFields_encodeFields]

theorem encode_of_decode {w : Word} {i : Instr} (h : decode w = .command i) : encode i = w := by
  rw [encode, ← decode_eq_command_iff.mp h, wordOf_fieldsOf]

/-- Settles O4: the inverses are `decode_encode` and `encode_of_decode`; the arithmetic on a word gives its fields
(`fieldsOf_op`, `fieldsOf_a`, `fieldsOf_imm`), and the case analysis is decode opcode by opcode. -/
theorem decodeEncodeInverse : Obligations.DecodeEncodeInverse := by
  refine ⟨decode_encode, fun _ _ => encode_of_decode, fun w => ?_⟩
  have ha : w.toNat / 2 ^ 16 % 2 ^ 8 = (fieldsOf w).a.toNat := (fieldsOf_a w).symm
  have himm : w.toNat % 2 ^ 16 = (fieldsOf w).imm.toNat := (fieldsOf_imm w).symm
  dsimp only
  rw [← fieldsOf_op, ha, himm, decode]
  obtain ⟨op, a, imm⟩ := fieldsOf w
  simp only [toNat_eq_zero_iff, BitVec.ofNat_toNat, BitVec.setWidth_eq]
  obtain rfl | rfl | rfl | rfl | rfl | rfl | rfl | rfl | hop := opcode_cases op
  · exact decodeFields_pack a imm
  · exact decodeFields_wchr a imm
  · exact decodeFields_wstr a imm
  · exact decodeFields_wcur a imm
  · exact decodeFields_tick a imm
  · exact decodeFields_rtik a imm
  · exact decodeFields_slen a imm
  · exact decodeFields_schr a imm
  · rw [decodeFields_unassigned a imm hop]
    split
    any_goals omega
    rfl

end Sys2Proof
end

section
/-! The opcode map as masks and matches (30_encoding.md R48): a row's mask keeps the opcode and the fields its format
does not use, so a word meets a row exactly when its fields are the row's, whatever its operands. -/

namespace Sys2Proof

/-- A mask acts on each field by itself. -/
theorem wordOf_and (f m : Fields) :
    wordOf f &&& wordOf m = wordOf ⟨f.op &&& m.op, f.a &&& m.a, f.imm &&& m.imm⟩ :=
  BitVec.and_append.trans (congrArg (· ++ (f.imm &&& m.imm)) BitVec.and_append)

theorem wordOf_inj {f g : Fields} : wordOf f = wordOf g ↔ f = g :=
  (Function.LeftInverse.injective fieldsOf_wordOf).eq_iff

/-- A word meets a row exactly when each field, masked, is the row's. -/
theorem and_wordOf_eq_iff (w : Word) (m : Fields) (op a : Byte) (imm : Half) :
    w &&& wordOf m = wordOf ⟨op, a, imm⟩ ↔
      (fieldsOf w).op &&& m.op = op ∧ (fieldsOf w).a &&& m.a = a ∧ (fieldsOf w).imm &&& m.imm = imm := by
  rw [← wordOf_fieldsOf w, wordOf_and, wordOf_inj, fieldsOf_wordOf, Fields.mk.injEq]

/-- The mask of format N keeps every field. -/
theorem mask_N_iff (w : Word) (op : Byte) :
    w &&& 0xFFFFFFFF#32 = wordOf ⟨op, 0#8, 0#16⟩ ↔ fieldsOf w = ⟨op, 0#8, 0#16⟩ := by
  refine (and_wordOf_eq_iff w ⟨.allOnes 8, .allOnes 8, .allOnes 16⟩ op 0#8 0#16).trans ?_
  rw [BitVec.and_allOnes, BitVec.and_allOnes, BitVec.and_allOnes, ← Fields.mk.injEq]

/-- The mask of format A leaves out `a`, the operand. -/
theorem mask_A_iff (w : Word) (op x : Byte) :
    (w &&& 0xFF00FFFF#32 = wordOf ⟨op, 0#8, 0#16⟩ ∧ x = (fieldsOf w).a) ↔ fieldsOf w = ⟨op, x, 0#16⟩ := by
  refine (and_congr_left' (and_wordOf_eq_iff w ⟨.allOnes 8, 0#8, .allOnes 16⟩ op 0#8 0#16)).trans ?_
  obtain ⟨op', a, imm⟩ := fieldsOf w
  simp only [BitVec.and_allOnes, BitVec.and_zero, Fields.mk.injEq]
  tauto

/-- The mask of format I leaves out `imm`, the operand. -/
theorem mask_I_iff (w : Word) (op : Byte) (x : Half) :
    (w &&& 0xFFFF0000#32 = wordOf ⟨op, 0#8, 0#16⟩ ∧ x = (fieldsOf w).imm) ↔ fieldsOf w = ⟨op, 0#8, x⟩ := by
  refine (and_congr_left' (and_wordOf_eq_iff w ⟨.allOnes 8, .allOnes 8, 0#16⟩ op 0#8 0#16)).trans ?_
  obtain ⟨op', a, imm⟩ := fieldsOf w
  simp only [BitVec.and_allOnes, BitVec.and_zero, Fields.mk.injEq]
  tauto

/-- The mask of format AI leaves out both operands. -/
theorem mask_AI_iff (w : Word) (op x : Byte) (y : Half) :
    (w &&& 0xFF000000#32 = wordOf ⟨op, 0#8, 0#16⟩ ∧ x = (fieldsOf w).a ∧ y = (fieldsOf w).imm) ↔
      fieldsOf w = ⟨op, x, y⟩ := by
  refine (and_congr_left' (and_wordOf_eq_iff w ⟨.allOnes 8, 0#8, 0#16⟩ op 0#8 0#16)).trans ?_
  obtain ⟨op', a, imm⟩ := fieldsOf w
  simp only [BitVec.and_allOnes, BitVec.and_zero, Fields.mk.injEq]
  tauto

/-- Settles O2: a word decodes to a command exactly when its fields are the command's, which each row's mask, match and
operands say together. -/
theorem decodeMatchesMaskAndMatch : Obligations.DecodeMatchesMaskAndMatch := fun w =>
  ⟨decode_eq_command_iff.trans (mask_N_iff w 1#8).symm,
    fun code => decode_eq_command_iff.trans (mask_A_iff w 2#8 code).symm,
    fun k => decode_eq_command_iff.trans (mask_I_iff w 3#8 k).symm,
    decode_eq_command_iff.trans (mask_N_iff w 4#8).symm,
    decode_eq_command_iff.trans (mask_N_iff w 5#8).symm,
    decode_eq_command_iff.trans (mask_N_iff w 6#8).symm,
    fun n => decode_eq_command_iff.trans (mask_I_iff w 7#8 n).symm,
    fun idx code => decode_eq_command_iff.trans (mask_AI_iff w 8#8 code idx).symm⟩

end Sys2Proof
end

section
/-! The illegal words (30_encoding.md R49) and their fault, the number of legal words, and the expansions of the
pseudo-instructions (R52). -/

namespace Sys2Proof.Machine

/-- A word is legal exactly when it is some command's. -/
theorem legalWords_eq_range : {w : Word | ∃ i, decode w = .command i} = Set.range encode :=
  Set.ext fun _ => ⟨fun ⟨i, h⟩ => ⟨i, encode_of_decode h⟩, fun ⟨i, h⟩ => ⟨i, h ▸ decode_encode i⟩⟩

theorem encode_injective : Function.Injective encode := fun i j h => by
  have hd : Verdict.command i = .command j := by rw [← decode_encode i, ← decode_encode j, h]
  cases hd
  rfl

/-- The commands by the operands they take: four without, one with a byte, two with a half word, one with both. -/
def instrEquiv : Instr ≃ Fin 4 ⊕ (Byte ⊕ (Fin 2 × Half ⊕ Half × Byte)) where
  toFun
    | .pack => .inl 0
    | .wcur => .inl 1
    | .tick => .inl 2
    | .rtik => .inl 3
    | .wchr code => .inr (.inl code)
    | .wstr k => .inr (.inr (.inl (0, k)))
    | .slen n => .inr (.inr (.inl (1, n)))
    | .schr idx code => .inr (.inr (.inr (idx, code)))
  invFun
    | .inl 0 => .pack
    | .inl 1 => .wcur
    | .inl 2 => .tick
    | .inl 3 => .rtik
    | .inr (.inl code) => .wchr code
    | .inr (.inr (.inl (0, k))) => .wstr k
    | .inr (.inr (.inl (1, n))) => .slen n
    | .inr (.inr (.inr (idx, code))) => .schr idx code
  left_inv i := by cases i <;> rfl
  right_inv
    | .inl 0 | .inl 1 | .inl 2 | .inl 3 => rfl
    | .inr (.inl _) => rfl
    | .inr (.inr (.inl (0, _))) => rfl
    | .inr (.inr (.inl (1, _))) => rfl
    | .inr (.inr (.inr _)) => rfl

theorem natCard_bitVec (n : Nat) : Nat.card (BitVec n) = 2 ^ n := by
  rw [Nat.card_congr BitVec.equivFin.toEquiv, Nat.card_fin]

theorem natCard_instr : Nat.card Instr = 4 * 1 + 1 * 2 ^ 8 + 2 * 2 ^ 16 + 2 ^ 24 := by
  rw [Nat.card_congr instrEquiv, Nat.card_sum, Nat.card_sum, Nat.card_sum, Nat.card_prod, Nat.card_prod, Nat.card_fin,
    Nat.card_fin, natCard_bitVec 8, natCard_bitVec 16]
  norm_num

/-- R49 on the fields: an unassigned opcode, or a field that the opcode's format does not use and that is not zero. -/
theorem decodeFields_illegal_iff (f : Fields) : (∃ why, decodeFields f = .illegal why) ↔
    f.op.toNat = 0 ∨ 9 ≤ f.op.toNat ∨ f.op.toNat ∈ [1, 4, 5, 6] ∧ ¬ (f.a = 0#8 ∧ f.imm = 0#16) ∨
      f.op.toNat = 2 ∧ ¬ f.imm = 0#16 ∨ f.op.toNat ∈ [3, 7] ∧ ¬ f.a = 0#8 := by
  obtain ⟨op, a, imm⟩ := f
  obtain rfl | rfl | rfl | rfl | rfl | rfl | rfl | rfl | hop := opcode_cases op
  · simp [decodeFields_pack]
  · simp [decodeFields_wchr]
  · simp [decodeFields_wstr]
  · simp [decodeFields_wcur]
  · simp [decodeFields_tick]
  · simp [decodeFields_rtik]
  · simp [decodeFields_slen]
  · simp [decodeFields_schr]
  · rw [decodeFields_unassigned a imm hop]
    exact iff_of_true ⟨_, rfl⟩ (hop.imp_right .inl)

theorem cause_raise (s : State) (c : Cause) (w : Word) : (s.raise c w).cause = c.code := by
  rw [State.cause, raise_status]
  cases c <;> rfl

/-- Fault entry writes FAULT, CAUSE and FCMD, and nothing else (R109). -/
theorem faultEntry_raise (s : State) (c : Cause) (w : Word) : faultEntry c w s (s.raise c w) :=
  ⟨halted_raise s c w, cause_raise s c w, rfl, rfl, rfl, ⟨rfl, rfl⟩,
    fun b i => congrFun (congrFun (byte_raise s c w) b) i, rfl, rfl, rfl, rfl, rfl, rfl⟩

/-- An illegal word given to a block that is not halted makes it enter the fault (R108, R111). -/
theorem step_illegal {s : State} {w : Word} {rest : List HostTxn} {why : Illegal} (hp : s.pending = .cmd w :: rest)
    (hh : s.halted = false) (hd : decode w = .illegal why) :
    step s = .next ((s.setPending rest).advance.raise .illegalCommand w) := by
  rw [step_pending hp]
  exact serveCommand_illegal (by simpa using hh) hd

/-- Settles O3: the fields decide which words are illegal, an illegal word runs into `faultEntry_raise`, and the legal
words are as many as the commands, since `encode` is injective. -/
theorem illegalWordsAndTheirCount : Obligations.IllegalWordsAndTheirCount := by
  refine ⟨fun w => ?_, fun s w rest hp hh ⟨why, hd⟩ => ?_, ?_⟩
  · rw [decode, decodeFields_illegal_iff, ← toNat_eq_zero_iff, ← toNat_eq_zero_iff, fieldsOf_op, fieldsOf_a,
      fieldsOf_imm]
    have hlow : w.toNat % 2 ^ 24 = 0 ↔ w.toNat / 2 ^ 16 % 256 = 0 ∧ w.toNat % 65536 = 0 := by omega
    rw [← hlow]
    exact Iff.rfl
  · exact ⟨_, step_illegal hp hh hd, faultEntry_raise _ _ _⟩
  · rw [legalWords_eq_range, Set.ncard_range_of_injective encode_injective, natCard_instr]

/-- The loads of LDSTR: one SCHR for each code and its index (R52). -/
def ldstrLoads (codes : List Byte) : List Instr :=
  codes.zipIdx.map fun p => .schr (BitVec.ofNat 16 p.2) p.1

theorem expand_ldstr {codes : List Byte} (h : codes.length < 2 ^ 16) : expand (.ldstr codes) =
    some (ldstrLoads codes ++ [Instr.slen (BitVec.ofNat 16 codes.length), Instr.rtik]) := by
  rw [expand, if_pos h, ldstrLoads]

@[simp] theorem ldstrLoads_length (codes : List Byte) : (ldstrLoads codes).length = codes.length := by
  simp [ldstrLoads]

theorem ldstrLoads_getElem? {codes : List Byte} {i : Nat} {c : Byte} (h : codes[i]? = some c) :
    (ldstrLoads codes)[i]? = some (.schr (BitVec.ofNat 16 i) c) := by
  simp [ldstrLoads, List.getElem?_zipIdx, h]

/-- Settles O5: an LDSTR of fewer than 65536 codes expands by `expand_ldstr`, the other two by definition. -/
theorem pseudoInstructionsExpand : Obligations.PseudoInstructionsExpand :=
  ⟨fun _ => rfl, rfl, fun codes h =>
    ⟨ldstrLoads codes, expand_ldstr h, ldstrLoads_length codes, fun _ _ => ldstrLoads_getElem?⟩⟩

end Sys2Proof.Machine
end

section
/-! The glyph index (40_glyph_index.md R60, R61, R64): the cells of the row are numbered from FCC, a code in range has the
cell of its own number, and every other code the cell at atlas origin. -/

namespace Sys2Proof.Machine

/-- The cell of number `d` lies inside the row exactly when `d` counts one of the whole cells (R64). -/
theorem cell_inside_iff (p : Params) (d : Int) :
    ¬ (d * p.cellB < 0 ∨ d * p.cellB + p.cellB > (p.width : Int)) ↔ 0 ≤ d ∧ d + 1 ≤ (p.width : Int) / p.cellB := by
  have hpos : (0 : Int) < p.cellB := Int.natCast_pos.mpr p.cellB_pos
  have hend : d * p.cellB + p.cellB = (d + 1) * p.cellB := by ring
  rw [not_or, Int.not_lt, Int.not_lt, mul_nonneg_iff_of_pos_right hpos, hend, Int.le_ediv_iff_mul_le hpos]

/-- The glyph index of a code: the start of its cell when the row has a cell of that number, and otherwise 0 (R60, R64). -/
theorem gidx_cases (p : Params) (code : Int) :
    (∃ m : Nat, m < p.width / p.cellB ∧ code = p.fcc + m ∧ gidx p code = m * p.cellB) ∨
      ¬ ((p.fcc : Int) ≤ code ∧ code ≤ p.fcc + (p.width : Int) / p.cellB - 1) ∧ gidx p code = 0 := by
  have hinside := cell_inside_iff p (code - p.fcc)
  rw [gidx_eq]
  split
  · next hout =>
    have hrange := mt hinside.mpr (not_not.mpr hout)
    exact .inr ⟨by omega, rfl⟩
  · next hin =>
    obtain ⟨h₀, h₁⟩ := hinside.mp hin
    obtain ⟨m, hm⟩ := Int.eq_ofNat_of_zero_le h₀
    rw [hm] at h₁ ⊢
    exact .inl ⟨m, by exact_mod_cast h₁, by omega, by rw [← Nat.cast_mul, Int.toNat_natCast]⟩

/-- The row has at least one whole cell (R64). -/
theorem cells_pos (p : Params) : 1 ≤ p.width / p.cellB := Nat.div_pos p.width_min p.cellB_pos

theorem gidx_fcc (p : Params) : gidx p p.fcc = 0 := by
  obtain ⟨m, -, hcode, hgidx⟩ | ⟨-, hgidx⟩ := gidx_cases p p.fcc
  · obtain rfl : m = 0 := by omega
    rw [hgidx, Nat.zero_mul]
  · exact hgidx

/-- A glyph index is the start of one of the whole cells (R64). -/
theorem exists_gidx_eq_mul (p : Params) (code : Int) : ∃ m, m < p.width / p.cellB ∧ gidx p code = m * p.cellB := by
  obtain ⟨m, hm, -, hgidx⟩ | ⟨-, hgidx⟩ := gidx_cases p code
  · exact ⟨m, hm, hgidx⟩
  · exact ⟨0, cells_pos p, hgidx.trans (Nat.zero_mul _).symm⟩

/-- Settles O22: the formula is the definition on an offset that is not negative, and the index is the start of a whole
cell. -/
theorem glyphIndexInsideAtlas : Obligations.GlyphIndexInsideAtlas := by
  intro p code
  refine ⟨?_, ?_, gidx_inside p code⟩
  · rw [gidx_eq]
    split
    · rfl
    · next hin => exact Int.toNat_of_nonneg (Int.not_lt.mp (not_or.mp hin).1)
  · obtain ⟨m, -, hgidx⟩ := exists_gidx_eq_mul p code
    rw [hgidx, Nat.mul_mod_left]

/-- Settles O23: the two cases of `gidx_cases` are the codes in range and the others. -/
theorem glyphIndexRange : Obligations.GlyphIndexRange := by
  intro p code
  refine ⟨by exact_mod_cast cells_pos p, fun hrange => ?_, fun hrange => ?_, gidx_fcc p, ?_⟩
  · obtain ⟨m, -, rfl, hgidx⟩ | ⟨hout, -⟩ := gidx_cases p code
    · rw [hgidx, Nat.cast_mul, add_sub_cancel_left]
    · exact absurd hrange hout
  · obtain ⟨m, hm, rfl, -⟩ | ⟨-, hgidx⟩ := gidx_cases p code
    · have hm : (m : Int) < (p.width : Int) / p.cellB := by exact_mod_cast hm
      exact absurd ⟨by omega, by omega⟩ hrange
    · exact hgidx
  · obtain ⟨m, hm, hgidx⟩ := exists_gidx_eq_mul p code
    calc gidx p code + p.cellB = p.cellB * (m + 1) := by rw [hgidx]; ring
      _ ≤ p.cellB * (p.width / p.cellB) := Nat.mul_le_mul_left _ hm

/-- The window of a character depends on the code through its glyph index alone (R76). -/
theorem forChar_congr {p : Params} {c c' : Int} (h : gidx p c = gidx p c') : forChar p c = forChar p c' := by
  rw [forChar, forChar, h]

theorem forChar_fallback {p : Params} {c : Int} (h : gidx p c = 0) : forChar p c = forChar p p.fcc :=
  forChar_congr (h.trans (gidx_fcc p).symm)

/-- A byte of a write at the start of a buffer is what the buffer then holds there (R34). -/
theorem getElem?_eq_byte_memWrite (s : State) (b : Buf) {v : List Byte} {i : Nat} (h : i < v.length) :
    v[i]? = some ((s.memWrite b 0 v).byte b i) := by
  rw [byte_memWrite, dif_pos ⟨rfl, Nat.zero_le i, h⟩]
  exact List.getElem?_eq_getElem h

/-- Settles O24: FCC has the glyph index of every out-of-range code, and WCHR writes the window whatever the code. -/
theorem outOfRangeCodeShowsFirstGlyph : Obligations.OutOfRangeCodeShowsFirstGlyph := by
  refine ⟨fun p c h => forChar_fallback h, fun s c h => ⟨_, exec_wchr s c, ⟨rfl, rfl⟩, fun i hi => ?_⟩⟩
  rw [forChar_fallback h]
  exact getElem?_eq_byte_memWrite s .win (by rwa [forChar_length])

end Sys2Proof.Machine
end

section
/-! The quantizer (41_pixel_packer.md R66 to R69): where each pair's three bytes land under an emit order, for which
lengths it refuses, and its answer as a stream of high nibbles. -/

namespace Sys2Proof.Machine

/-- A packed byte is two high nibbles, the first one low (R66, R69). -/
theorem nibbles_eq_append (lo hi : Byte) : nibbles lo hi = highNibble hi ++ highNibble lo := by
  refine BitVec.eq_of_getLsbD_eq fun i hlt => ?_
  simp only [nibbles, highNibble, BitVec.getLsbD_or, BitVec.getLsbD_ushiftRight, BitVec.getLsbD_shiftLeft,
    BitVec.getLsbD_append, BitVec.getLsbD_extractLsb']
  by_cases hlow : i < 4
  · simp [hlow]
  · simp [hlow, hlt, show i - 4 < 4 by omega, BitVec.getLsbD_of_ge lo (4 + i) (by omega)]

theorem nibbles_low (lo hi : Byte) : (nibbles lo hi).extractLsb' 0 4 = highNibble lo := by
  rw [nibbles_eq_append]
  exact BitVec.extractLsb'_append_eq_right

theorem nibbles_high (lo hi : Byte) : (nibbles lo hi).extractLsb' 4 4 = highNibble hi := by
  rw [nibbles_eq_append]
  exact BitVec.extractLsb'_append_eq_left

/-- Where the three bytes of pair `j` of `q` start in the frame (R66). -/
def pairStart (order : EmitOrder) (q j : Nat) : Nat :=
  match order with
  | .reverse => 3 * (q - 1 - j)
  | .forward => 3 * j

/-- The first pair emitted stands where pair 0 starts. -/
theorem emitPair_first (order : EmitOrder) {pair later : List Byte} {q i : Nat} (hpair : pair.length = 3)
    (hlater : later.length = 3 * q) (hi : i < 3) :
    (emitPair order pair later)[pairStart order (q + 1) 0 + i]? = pair[i]? := by
  cases order with
  | reverse =>
    rw [emitPair, pairStart, List.getElem?_append_right (by omega)]
    congr 1
    omega
  | forward =>
    rw [emitPair, pairStart, List.getElem?_append_left (by omega)]
    congr 1
    omega

/-- The later pairs keep their bytes, and `pairStart` counts them one pair on. -/
theorem emitPair_later (order : EmitOrder) {pair later : List Byte} {q j i : Nat} (hpair : pair.length = 3)
    (hlater : later.length = 3 * q) (hj : j < q) (hi : i < 3) :
    (emitPair order pair later)[pairStart order (q + 1) (j + 1) + i]? = later[pairStart order q j + i]? := by
  cases order with
  | reverse =>
    rw [emitPair, pairStart, pairStart, List.getElem?_append_left (by omega)]
    congr 1
    omega
  | forward =>
    rw [emitPair, pairStart, pairStart, List.getElem?_append_right (by omega)]
    congr 1
    omega

/-- The bytes of pair `j`, whose samples are the six after the first `6 * j`, by induction on the pairs (R66). -/
theorem pack_getElem? {order : EmitOrder} {q j i : Nat} {x out rest : List Byte} {a b c d e g : Byte}
    (hx : x.length = 6 * q) (hout : pack order x = .ok out)
    (hpair : x.drop (6 * j) = a :: b :: c :: d :: e :: g :: rest) (hi : i < 3) :
    out[pairStart order q j + i]? = (packPair a b c d e g)[i]? := by
  have hj : j < q := by
    have := congrArg List.length hpair
    simp only [List.length_drop, List.length_cons] at this
    omega
  induction q generalizing x j out with
  | zero => omega
  | succ q ih =>
    obtain ⟨a', b', c', d', e', g', tail, rfl⟩ := exists_pair (x := x) (by omega)
    have htail : tail.length = 6 * q := by simpa [Nat.mul_succ] using hx
    obtain ⟨later, hlater, hlen⟩ := pack_ok order q tail htail
    rw [pack_pair, hlater] at hout
    cases hout
    cases j with
    | zero =>
      cases hpair
      exact emitPair_first order rfl hlen hi
    | succ j =>
      rw [emitPair_later order rfl hlen (by omega) hi]
      exact ih htail hlater hpair (by omega)

theorem drop_of_getElem? {x : List Byte} {n : Nat} {a : Byte} (h : x[n]? = some a) :
    x.drop n = a :: x.drop (n + 1) := by
  obtain ⟨hn, rfl⟩ := List.getElem?_eq_some_iff.mp h
  exact List.drop_eq_getElem_cons hn

/-- Settles O26: the six samples are the pair after the first `6 * j`, and `pack_getElem?` gives its three bytes. -/
theorem packFormulas : Obligations.PackFormulas := by
  intro order q x hx
  obtain ⟨out, hout, hlen⟩ := pack_ok order q x hx
  refine ⟨out, hout, hlen, fun j hj p0r p0g p0b p1r p1g p1b h0 h1 h2 h3 h4 h5 => ?_⟩
  have hpair : x.drop (6 * j) = p0r :: p0g :: p0b :: p1r :: p1g :: p1b :: x.drop (6 * j + 6) := by
    rw [drop_of_getElem? h0, drop_of_getElem? h1, drop_of_getElem? h2, drop_of_getElem? h3, drop_of_getElem? h4,
      drop_of_getElem? h5]
  have hbyte (i : Nat) (hi : i < 3) := pack_getElem? hx hout hpair hi
  cases order <;> exact ⟨hbyte 0 (by omega), hbyte 1 (by omega), hbyte 2 (by omega)⟩

/-- The bytes of a frame depend on the high nibbles of the samples alone, pair by pair (R67). -/
theorem pack_eq_of_map_highNibble_eq (order : EmitOrder) {q : Nat} {x y : List Byte} (hx : x.length = 6 * q)
    (h : x.map highNibble = y.map highNibble) : pack order x = pack order y := by
  have hlen : x.length = y.length := by simpa using congrArg List.length h
  induction q generalizing x y with
  | zero =>
    rw [List.length_eq_zero_iff.mp (by omega : x.length = 0), List.length_eq_zero_iff.mp (by omega : y.length = 0)]
  | succ q ih =>
    obtain ⟨a, b, c, d, e, g, xs, rfl⟩ := exists_pair (x := x) (by omega)
    obtain ⟨a', b', c', d', e', g', ys, rfl⟩ := exists_pair (x := y) (by omega)
    simp only [List.map_cons, List.cons.injEq] at h
    obtain ⟨ha, hb, hc, hd, he, hg, htail⟩ := h
    have hpair : packPair a b c d e g = packPair a' b' c' d' e' g' := by
      simp only [packPair, nibbles_eq_append, ha, hb, hc, hd, he, hg]
    rw [pack_pair, pack_pair, hpair, ih (by simpa [Nat.mul_succ] using hx) htail (by simpa using hlen)]

/-- The quantizer refuses a length that is no whole number of pairs (R68). -/
theorem pack_refuses (order : EmitOrder) {x : List Byte} (h : x.length % 6 ≠ 0) :
    pack order x = .error .invalidInput := by
  fun_induction pack order x with
  | case1 => exact absurd rfl h
  | case2 a b c d e g rest later hlater ih =>
    cases hlater.symm.trans (ih (by simpa [Nat.add_assoc] using h))
  | case3 a b c d e g rest k hk ih =>
    exact hk.symm.trans (ih (by simpa [Nat.add_assoc] using h))
  | case4 => rfl

/-- Settles O27: the windows have one length; off the multiples of 6 both are refused, else each pair agrees. -/
theorem packKeepsHighNibblesOnly : Obligations.PackKeepsHighNibblesOnly := by
  intro order x y h
  have hlen : x.length = y.length := by simpa using congrArg List.length h
  by_cases hpairs : x.length % 6 = 0
  · exact pack_eq_of_map_highNibble_eq order (q := x.length / 6) (by omega) h
  · rw [pack_refuses order hpairs, pack_refuses order (hlen ▸ hpairs)]

/-- A nibble depends on the byte that holds it. -/
theorem nibbleAt_congr {out bytes : List Byte} {m h : Nat} (hbyte : out[m + h / 2]? = bytes[h / 2]?) :
    nibbleAt out (2 * m + h) = nibbleAt bytes h := by
  rw [nibbleAt, nibbleAt, Nat.mul_add_div (by omega), hbyte, Nat.mul_add_mod]

/-- The nibbles of a pair's three bytes: the later pixel's before the earlier one's, R, G, B inside each (R69). -/
theorem packPair_nibble {samples : List Byte} {a b c d e g v : Byte} {side ch : Nat} (hside : side < 2) (hch : ch < 3)
    (hv : (a :: b :: c :: d :: e :: g :: samples)[3 * side + ch]? = some v) :
    nibbleAt (packPair a b c d e g) (3 * (1 - side) + ch) = some (highNibble v) := by
  interval_cases side <;> interval_cases ch <;> cases hv <;>
    simp [nibbleAt, packPair, nibbles_low, nibbles_high]

/-- The pixel on side `side` of pair `j` has its nibbles on the other side of the pair's three bytes (R66, R69). -/
theorem pack_nibble {order : EmitOrder} {q j side ch : Nat} {x out : List Byte} {v : Byte}
    (hx : x.length = 6 * q) (hout : pack order x = .ok out) (hj : j < q) (hside : side < 2) (hch : ch < 3)
    (hv : x[3 * (2 * j + side) + ch]? = some v) :
    nibbleAt out (2 * pairStart order q j + (3 * (1 - side) + ch)) = some (highNibble v) := by
  obtain ⟨a, b, c, d, e, g, rest, hpair⟩ := exists_pair (x := x.drop (6 * j))
    (by rw [List.length_drop]; omega)
  rw [nibbleAt_congr (pack_getElem? hx hout hpair (by omega))]
  refine packPair_nibble hside hch (samples := rest) ?_
  rw [← hpair, List.getElem?_drop, ← hv]
  congr 1
  omega

/-- Settles O29: pixel `i` is on side `i % 2` of pair `i / 2`, and the rest is where that pair starts. -/
theorem packIsNibbleStream : Obligations.PackIsNibbleStream := by
  intro q x hx
  have hnibble (order : EmitOrder) {out : List Byte} (hout : pack order x = .ok out) {i c : Nat} {v : Byte}
      (hi : i < 2 * q) (hc : c < 3) (hv : x[3 * i + c]? = some v) :=
    pack_nibble hx hout (j := i / 2) (side := i % 2) (by omega) (by omega) hc
      (by rwa [Nat.div_add_mod])
  constructor
  · obtain ⟨out, hout, hlen⟩ := pack_ok .reverse q x hx
    refine ⟨out, hout, hlen, fun i c v hi hc hv => ?_⟩
    rw [← hnibble .reverse hout hi hc hv, pairStart]
    congr 1
    omega
  · obtain ⟨out, hout, hlen⟩ := pack_ok .forward q x hx
    refine ⟨out, hout, hlen, fun i c v hi hc hv => ?_⟩
    rw [← hnibble .forward hout hi hc hv, pairStart]
    congr 1
    split <;> omega

end Sys2Proof.Machine
end

section
/-! The command PACK (41_pixel_packer.md R65, R68, R71): from every state it packs the window and emits the frame, whose
rows run backwards through the window's. -/

namespace Sys2Proof.Machine

/-- PACK packs the whole window, writes the frame and emits it, from every state (R65, R68). -/
theorem exec_pack_answers (s : State) :
    ∃ f, pack s.params.emitOrder ((List.range s.params.winB).map (s.byte .win)) = .ok f ∧
      f.length = s.params.frameB ∧ exec .pack s = .next ((s.memWrite .frame 0 f).emit f) := by
  obtain ⟨q, hwin, hframe⟩ := s.params.exists_pairs
  obtain ⟨f, hf, hlen⟩ := pack_ok s.params.emitOrder q ((List.range s.params.winB).map (s.byte .win))
    (by simpa using hwin)
  exact ⟨f, hf, hlen.trans hframe.symm, exec_pack hf⟩

/-- Settles O28: `pack_refuses` and `pack_ok` are the two kinds of length, and PACK's writes leave the fault alone. -/
theorem packRefusesOddPixelCounts : Obligations.PackRefusesOddPixelCounts := by
  refine ⟨fun order x => ⟨pack_refuses order, fun h => ?_⟩, fun s => ?_⟩
  · obtain ⟨out, hout, -⟩ := pack_ok order (x.length / 6) x (by omega)
    exact ⟨out, hout⟩
  · obtain ⟨f, -, -, hexec⟩ := exec_pack_answers s
    exact ⟨_, hexec, rfl, rfl⟩

/-- The pixels behind column `x` of row `r`, three nibbles each, are the later rows at half a cell row of bytes each and
the rest of row `r` (R32, R71); the window has `2 * q` pixels, CELL_PX in a row. -/
theorem pixels_behind (z : Sizes) {q r x : Nat} (hq : z.winB = 6 * q) (hr : r < z.cellPx) (hx : x < z.cellPx) :
    z.cellPx * r + x < 2 * q ∧
      3 * (2 * q - 1 - (z.cellPx * r + x)) = 2 * (z.cellB / 2 * (z.cellPx - 1 - r)) + 3 * (z.cellPx - 1 - x) := by
  obtain ⟨later, hlater⟩ : ∃ later, z.cellPx = r + 1 + later := ⟨z.cellPx - 1 - r, by omega⟩
  obtain ⟨half, hhalf⟩ : ∃ half, z.cellPx = 2 * half := ⟨z.cellPx / 2, by have := z.cell_even; omega⟩
  have hwin : z.winB = 3 * (z.cellPx * z.cellPx) := by rw [z.winB_eq, z.cellB_eq]; ring
  have hrows : z.cellPx * z.cellPx = z.cellPx * r + z.cellPx + z.cellPx * later :=
    calc z.cellPx * z.cellPx = z.cellPx * (r + 1 + later) := by rw [← hlater]
      _ = z.cellPx * r + z.cellPx + z.cellPx * later := by ring
  have hbytes : 2 * (z.cellB / 2 * later) = 3 * (z.cellPx * later) := by
    rw [show z.cellB / 2 = 3 * half by rw [z.cellB_eq]; omega, hhalf]
    ring
  rw [show z.cellPx - 1 - r = later by omega]
  omega

/-- Settles O30: the nibble stream of O29 on the window PACK reads, at pixel `CELL_PX * r + x`. -/
theorem frameRowsRightToLeft : Obligations.FrameRowsRightToLeft := by
  intro s horder p
  obtain ⟨f, hf, hlen, hexec⟩ := exec_pack_answers s
  obtain ⟨q, hwin, -⟩ := p.exists_pairs
  refine ⟨_, hexec, fun r x c hr hx hc => ?_⟩
  obtain ⟨hpixel, hbehind⟩ := pixels_behind p.toSizes hwin hr hx
  obtain ⟨⟨out, hout, -, hnibble⟩, -⟩ := packIsNibbleStream q ((List.range p.winB).map (s.byte .win))
    (by simpa using hwin)
  rw [horder] at hf
  obtain rfl : out = f := Except.ok.inj (hout.symm.trans hf)
  have hindex : p.cellB * r + 3 * x + c = 3 * (p.cellPx * r + x) + c := by rw [p.cellB_eq]; ring
  have hread : ((List.range p.winB).map (s.byte .win))[3 * (p.cellPx * r + x) + c]? =
      some (s.byte .win (p.cellB * r + 3 * x + c)) := by
    rw [hindex, List.getElem?_map, List.getElem?_range (by omega)]
    rfl
  rw [← hnibble _ c _ hpixel hc hread, ← hbehind, ← hlen, byte_emit, map_byte_memWrite]

/-- Settles O31: `exec_pack_answers` says what PACK writes, and a write of FRAME leaves every other byte as it was. -/
theorem packCompletes : Obligations.PackCompletes := by
  refine ⟨rfl, fun a imm => ?_, fun s => ?_⟩
  · rw [decode, fieldsOf_wordOf, decodeFields_pack]
  · obtain ⟨f, hf, hlen, hexec⟩ := exec_pack_answers s
    refine ⟨f, _, hf, hlen, hexec, fun i hi => ?_, rfl, fun b a hout => ?_, rfl, ⟨rfl, rfl⟩, ⟨rfl, rfl⟩, rfl,
      ⟨rfl, rfl, rfl, rfl⟩⟩
    · rw [byte_emit]
      exact getElem?_eq_byte_memWrite s .frame (by omega)
    · rw [byte_emit, byte_memWrite, dif_neg]
      rintro ⟨hb, hlo, hhi⟩
      exact hout ⟨hb, hlo, by omega⟩

end Sys2Proof.Machine
end

section
/-! The windower's pure functions (42_glyph_window.md R76, R78, R80, R84): the bytes of a window, and for which columns a
string has one. -/

namespace Sys2Proof.Machine

/-- A pixel row of the atlas is there (R12, R31). -/
theorem rows_bind (p : Params) {r : Nat} (hr : r < p.cellPx) {α : Type} (f : List Byte → Option α) :
    p.rows[r]?.bind f = f (p.rows.getD r []) := by
  have hrow : r < p.rows.length := by rwa [p.rows_count]
  rw [List.getElem?_eq_getElem hrow, List.getD_eq_getElem _ _ hrow, Option.bind_some]

/-- Byte `j` of a window's row: in the cell at `col0` from pixel `shift` on, and past that cell's last pixel in the cell at
`col1` from its start (R78). -/
theorem windowRow_getElem? (p : Params) {col0 col1 shift r j : Nat} (hr : r < p.cellPx) (hs : shift ≤ p.cellPx)
    (hcell : col0 + p.cellB ≤ p.width) (hj : j < p.cellB) :
    (windowRow p col0 col1 shift r)[j]? =
      if j < 3 * (p.cellPx - shift) then (p.rows.getD r [])[col0 + 3 * shift + j]?
      else (p.rows.getD r [])[col1 + (j - 3 * (p.cellPx - shift))]? := by
  have hB := p.cellB_eq
  have hlen : (atlasRead p r (col0 + 3 * shift) (3 * (p.cellPx - shift))).length = 3 * (p.cellPx - shift) :=
    atlasRead_length p hr (by omega)
  rw [windowRow]
  split
  · next hleft => rw [List.getElem?_append_left (by rwa [hlen]), atlasRead_getElem? _ _ _ _ _ hleft]
  · next hright =>
    rw [List.getElem?_append_right (by omega), hlen, atlasRead_getElem? _ _ _ _ _ (by omega)]

/-- The rows of a window stand one after the other, CELL_B bytes each (R32). -/
theorem windowRows_getElem? (p : Params) {col0 col1 shift r j : Nat} (hr : r < p.cellPx) (hs : shift ≤ p.cellPx)
    (h₀ : col0 + p.cellB ≤ p.width) (h₁ : col1 + p.cellB ≤ p.width) (hj : j < p.cellB) :
    (windowRows p col0 col1 shift)[p.cellB * r + j]? = (windowRow p col0 col1 shift r)[j]? :=
  flatMap_range_getElem? _ _ _ _ _ (fun _ hr => windowRow_length p hr hs h₀ h₁) hr hj

/-- Settles O32: each row of the window is a read of the atlas at the glyph index, inside the row. -/
theorem characterWindowLayout : Obligations.CharacterWindowLayout := by
  refine fun p code => ⟨forChar_length p code, fun r j hr hj => ?_⟩
  rw [rows_bind p hr, ← atlasRead_getElem? p r _ _ _ hj]
  exact flatMap_range_getElem? _ _ _ _ _ (fun r hr => atlasRead_length p hr (gidx_inside p code)) hr hj

/-- A column of a string has its two characters (R80). -/
theorem exists_chars (p : Params) {str : List Byte} {k : Nat} (hn : 1 ≤ str.length)
    (hk : k ≤ p.cellPx * (str.length - 1)) :
    ∃ code0 code1, str[k / p.cellPx]? = some code0 ∧ str[(k + (p.cellPx - 1)) / p.cellPx]? = some code1 :=
  have ⟨h₀, h₁⟩ := p.chars_inside hn hk
  ⟨_, _, List.getElem?_eq_getElem h₀, List.getElem?_eq_getElem h₁⟩

/-- The last legal column, over the integers as `forString` tests it and over the naturals (R80). -/
theorem lastColumn_eq (z : Sizes) {n : Nat} (hn : 1 ≤ n) :
    (z.cellPx : Int) * ((n : Int) - 1) = ((z.cellPx * (n - 1) : Nat) : Int) := by
  rw [Nat.cast_mul, Nat.cast_sub hn, Nat.cast_one]

/-- The windower refuses an empty string and a column outside the string (R80). -/
theorem forString_refuses (p : Params) {str : List Byte} {k : Int}
    (h : str.length = 0 ∨ k < 0 ∨ k > p.cellPx * ((str.length : Int) - 1)) :
    forString p str k = .error .invalidInput := by
  unfold forString
  split
  · rfl
  · next hn => rw [if_pos (h.resolve_left hn)]

/-- At a legal column the window is made of the cells of the two characters, each with its own fallback (R78, R84). -/
theorem forString_eq (p : Params) {str : List Byte} {k : Nat} {code0 code1 : Byte}
    (hk : k ≤ p.cellPx * (str.length - 1)) (h₀ : str[k / p.cellPx]? = some code0)
    (h₁ : str[(k + (p.cellPx - 1)) / p.cellPx]? = some code1) :
    forString p str k = .ok (windowRows p (gidx p code0.toNat) (gidx p code1.toNat) (k % p.cellPx)) := by
  have hn : 1 ≤ str.length := by
    obtain ⟨hlt, -⟩ := List.getElem?_eq_some_iff.mp h₀
    exact Nat.one_le_of_lt hlt
  have hcol : ¬ ((k : Int) < 0 ∨ (k : Int) > p.cellPx * ((str.length : Int) - 1)) := by
    rw [lastColumn_eq _ hn]
    omega
  rw [forString, if_neg (by omega), if_neg hcol, Int.toNat_natCast, h₀, h₁]

/-- Settles O33: the window is the one of `forString_eq`, and both cells lie inside the row. -/
theorem stringWindowLayout : Obligations.StringWindowLayout := by
  intro p str k hn hk shift visible0
  obtain ⟨code0, code1, h₀, h₁⟩ := exists_chars p hn hk
  have hwindow := forString_eq p hk h₀ h₁
  have hshift : shift ≤ p.cellPx := (Nat.mod_lt k p.cell_pos).le
  refine ⟨code0, code1, _, h₀, h₁, hwindow, forString_length hwindow, fun r j hr hj => ?_⟩
  rw [rows_bind p hr, windowRows_getElem? p hr hshift (gidx_inside p _) (gidx_inside p _) hj,
    windowRow_getElem? p hr hshift (gidx_inside p _) hj]

/-- Settles O34: outside the string's columns `forString_refuses`, inside them the characters are in the string. -/
theorem stringWindowRange : Obligations.StringWindowRange := by
  refine fun p str k => ⟨fun hn => forString_refuses p (.inl hn), fun _ hk => forString_refuses p (.inr hk),
    fun hn hlow hhigh => ?_⟩
  obtain ⟨k, rfl⟩ := Int.eq_ofNat_of_zero_le hlow
  rw [lastColumn_eq _ hn, Int.ofNat_le] at hhigh
  obtain ⟨h₀, h₁⟩ := p.chars_inside hn hhigh
  have hlast : (k : Int) + ((p.cellPx : Int) - 1) = ((k + (p.cellPx - 1) : Nat) : Int) := by
    have := p.cell_pos
    omega
  exact ⟨Int.le_sub_one_of_lt (by exact_mod_cast h₀), by rw [hlast]; exact Int.le_sub_one_of_lt (by exact_mod_cast h₁),
    forString_legal p (by omega) hhigh⟩

end Sys2Proof.Machine
end

section
/-! The laws of the window of a string (42_glyph_window.md R81, R83): it is a slice of the virtual strip, and at a multiple
of CELL_PX it is the whole cell of one character. -/

namespace Sys2Proof.Machine

/-- Element `w * i + j` of lists of `w` elements each, put together, is element `j` of list `i`. -/
theorem flatMap_getElem? {α β : Type} {g : α → List β} {w i j : Nat} {xs : List α} {c : α}
    (hg : ∀ a, (g a).length = w) (hc : xs[i]? = some c) (hj : j < w) : (xs.flatMap g)[w * i + j]? = (g c)[j]? := by
  induction xs generalizing i with
  | nil => cases hc
  | cons a xs ih =>
    rw [List.flatMap_cons]
    cases i with
    | zero =>
      cases hc
      rw [Nat.mul_zero, Nat.zero_add, List.getElem?_append_left (by rwa [hg])]
    | succ i =>
      have hindex : w * (i + 1) + j = (g a).length + (w * i + j) := by rw [hg, Nat.mul_succ]; omega
      rw [hindex, List.getElem?_append_right (Nat.le_add_right _ _), Nat.add_sub_cancel_left]
      exact ih hc

/-- Byte `j` of cell `i` of the strip is byte `j` of the glyph cell of character `i` (R81). -/
theorem strip_getElem? (p : Params) {str : List Byte} {r i j : Nat} {c : Byte} (hr : r < p.cellPx)
    (hc : str[i]? = some c) (hj : j < p.cellB) :
    (strip p str r)[p.cellB * i + j]? = (p.rows.getD r [])[gidx p c.toNat + j]? := by
  rw [strip, flatMap_getElem? (g := cellRow p r) (fun c => atlasRead_length p hr (gidx_inside p c.toNat)) hc hj, cellRow,
    atlasRead_getElem? _ _ _ _ _ hj]

/-- Byte `j` of row `r` of the window at column `k` is byte `3 * k + j` of the strip's row: the window starts `k` pixels
into the strip (R81). -/
theorem forString_getElem?_eq_strip (p : Params) {str x : List Byte} {k r j : Nat} (hn : 1 ≤ str.length)
    (hk : k ≤ p.cellPx * (str.length - 1)) (hx : forString p str k = .ok x) (hr : r < p.cellPx) (hj : j < p.cellB) :
    x[p.cellB * r + j]? = (strip p str r)[3 * k + j]? := by
  have hB := p.cellB_eq
  have hshift := Nat.mod_lt k p.cell_pos
  obtain ⟨code0, code1, h₀, h₁⟩ := exists_chars p hn hk
  obtain rfl := Except.ok.inj ((forString_eq p hk h₀ h₁).symm.trans hx)
  have hcells : 3 * k = p.cellB * (k / p.cellPx) + 3 * (k % p.cellPx) := by
    calc 3 * k = 3 * (p.cellPx * (k / p.cellPx) + k % p.cellPx) := by rw [Nat.div_add_mod]
      _ = p.cellB * (k / p.cellPx) + 3 * (k % p.cellPx) := by rw [hB]; ring
  rw [windowRows_getElem? p hr hshift.le (gidx_inside p _) (gidx_inside p _) hj,
    windowRow_getElem? p hr hshift.le (gidx_inside p _) hj]
  split
  · next hleft =>
    have hindex : 3 * k + j = p.cellB * (k / p.cellPx) + (3 * (k % p.cellPx) + j) := by rw [hcells, Nat.add_assoc]
    rw [hindex, strip_getElem? p hr h₀ (by omega), Nat.add_assoc]
  · next hright =>
    rw [p.char1_eq, if_neg (by omega)] at h₁
    have hindex : 3 * k + j = p.cellB * (k / p.cellPx + 1) + (j - 3 * (p.cellPx - k % p.cellPx)) := by
      rw [hcells, Nat.mul_succ]
      omega
    rw [hindex, strip_getElem? p hr h₁ (by omega)]

/-- Settles O35: both parts are `forString_getElem?_eq_strip`, a slice byte by byte and two windows over the same strip. -/
theorem windowIsSliceOfStrip : Obligations.WindowIsSliceOfStrip := by
  intro p str k hn hk
  obtain ⟨x, hx⟩ := forString_legal p (by omega) hk
  refine ⟨⟨x, hx, fun r hr => List.ext_getElem? fun j => ?_⟩, fun hnext => ?_⟩
  · rw [List.getElem?_take, List.getElem?_take]
    split
    · next hj => rw [List.getElem?_drop, List.getElem?_drop, forString_getElem?_eq_strip p hn hk hx hr hj]
    · rfl
  · obtain ⟨y, hy⟩ := forString_legal p (by omega) hnext
    have hB := p.cellB_eq
    refine ⟨x, y, hx, hy, fun r j hr hj => ?_⟩
    calc x[p.cellB * r + 3 + j]? = x[p.cellB * r + (3 + j)]? := by rw [Nat.add_assoc]
      _ = (strip p str r)[3 * k + (3 + j)]? := forString_getElem?_eq_strip p hn hk hx hr (by omega)
      _ = (strip p str r)[3 * (k + 1) + j]? := by rw [Nat.mul_succ, Nat.add_assoc]
      _ = y[p.cellB * r + j]? := (forString_getElem?_eq_strip p hn hnext hy hr (by omega)).symm

/-- A window that starts at the first pixel of a cell shows no pixel of another cell (R78). -/
theorem windowRows_zero (p : Params) (code : Int) (col1 : Nat) : windowRows p (gidx p code) col1 0 = forChar p code := by
  rw [windowRows, forChar]
  congr 1
  funext r
  rw [windowRow, Nat.sub_zero, p.cellB_eq, Nat.mul_comm p.cellPx 3]
  simp [atlasRead]

/-- At a multiple of CELL_PX the window is the whole cell of the character there (R83). -/
theorem forString_boundary (p : Params) {str : List Byte} {i : Nat} {c : Byte} (hc : str[i]? = some c) :
    forString p str ((p.cellPx * i : Nat) : Int) = .ok (forChar p c.toNat) := by
  obtain ⟨hi, -⟩ := List.getElem?_eq_some_iff.mp hc
  have hdiv : p.cellPx * i / p.cellPx = i := Nat.mul_div_cancel_left i p.cell_pos
  have hmod : p.cellPx * i % p.cellPx = 0 := Nat.mul_mod_right _ _
  have h₁ : str[(p.cellPx * i + (p.cellPx - 1)) / p.cellPx]? = some c := by rw [p.char1_eq, if_pos hmod, hdiv, hc]
  rw [forString_eq p (Nat.mul_le_mul_left _ (by omega)) (by rw [hdiv, hc]) h₁, hmod, windowRows_zero]

/-- The character of the current string at an index inside it (R102). -/
theorem characters_getElem? (s : State) {i : Nat} (hi : i < s.slen.toNat) : s.characters[i]? = some (s.byte .str i) := by
  rw [State.characters, List.getElem?_map, List.getElem?_range hi]
  rfl

/-- Settles O36: the pure functions agree by `forString_boundary`, and column `CELL_PX * i` fits WSTR's operand. -/
theorem characterBoundary : Obligations.CharacterBoundary := by
  refine ⟨fun p str i c hc => forString_boundary p hc, fun s i hfit hi => ?_⟩
  have hcolumn : (BitVec.ofNat 16 (s.params.cellPx * i)).toNat = s.params.cellPx * i := by
    have hlast : s.params.cellPx * i ≤ s.params.cellPx * (s.slen.toNat - 1) := Nat.mul_le_mul_left _ (by omega)
    exact Nat.mod_eq_of_lt (Nat.lt_of_le_of_lt hlast (s.params.column_fits hfit))
  rw [exec_wstr, windowString_fits hfit, hcolumn, forString_boundary s.params (characters_getElem? s hi), exec_wchr]

end Sys2Proof.Machine
end

section
/-! The three words of the windower (30_encoding.md R46, R48). -/

namespace Sys2Proof

/-- The fields of a word stand at bits 31:24, 23:16 and 15:0 (R46). -/
theorem wordOf_eq_or (f : Fields) :
    wordOf f = (f.op.setWidth 32 <<< 24) ||| (f.a.setWidth 32 <<< 16) ||| f.imm.setWidth 32 := by
  refine BitVec.eq_of_getLsbD_eq fun b hb => ?_
  simp only [wordOf, BitVec.getLsbD_append, BitVec.getLsbD_or, BitVec.getLsbD_shiftLeft, BitVec.getLsbD_setWidth]
  have himm : 16 ≤ b → f.imm.getLsbD b = false := BitVec.getLsbD_of_ge f.imm b
  have ha : 8 ≤ b - 16 → f.a.getLsbD (b - 16) = false := BitVec.getLsbD_of_ge f.a (b - 16)
  split
  · next h => simp [hb, h, show b < 24 by omega]
  · next h =>
    rw [himm (by omega)]
    split
    · next h' => simp [hb, h, show b < 24 by omega, show b - 16 < 32 by omega]
    · next h' =>
      rw [ha (by omega)]
      simp [hb, show ¬ b < 24 by omega, show b - 24 < 32 by omega, show b - 16 - 8 = b - 24 by omega]

theorem encode_wchr (code : Byte) : encode (.wchr code) = 0x02000000#32 ||| (code.setWidth 32 <<< 16) := by
  rw [encode, encodeFields, wordOf_eq_or]
  simp

theorem encode_wstr (k : Half) : encode (.wstr k) = 0x03000000#32 ||| k.setWidth 32 := by
  rw [encode, encodeFields, wordOf_eq_or]
  simp

end Sys2Proof
end

section
/-! The window commands (42_glyph_window.md R75, R77, R79, R82): WCHR always writes a window, WSTR and WCUR write one or
enter the fault, and issuing a command again changes nothing. -/

namespace Sys2Proof.Machine

/-- Writing the same bytes again changes nothing (R34). -/
theorem splice_splice (i : Nat) (v : List Byte) (m : Memory) :
    Memory.splice i v (Memory.splice i v m) = Memory.splice i v m := by
  have hlow : (Memory.cells i v).filter (fun c => decide (c.1 < i)) = [] :=
    List.filter_eq_nil_iff.mpr fun c hc => by simpa using (cells_mem_range hc).1
  have hhigh : (Memory.cells i v).filter (fun c => decide (i + v.length ≤ c.1)) = [] :=
    List.filter_eq_nil_iff.mpr fun c hc => by simpa using (cells_mem_range hc).2
  have hboth (c : Host.Cell) : (decide (c.1 < i) && decide (i + v.length ≤ c.1)) = false := by
    rw [Bool.and_eq_false_iff, decide_eq_false_iff_not, decide_eq_false_iff_not]
    omega
  have hboth' (c : Host.Cell) : (decide (i + v.length ≤ c.1) && decide (c.1 < i)) = false := by
    rw [Bool.and_comm, hboth]
  simp only [Memory.splice, List.filter_append, List.filter_filter, Bool.and_self, hlow, hhigh, hboth, hboth',
    List.filter_false, List.append_nil, List.nil_append]

theorem memWrite_memWrite (b : Buf) (i : Nat) (v : List Byte) (s : State) :
    (s.memWrite b i v).memWrite b i v = s.memWrite b i v := by
  cases b <;> simp only [State.memWrite, splice_splice]

/-- A write of a window leaves everything but WIN as it was (R75). -/
theorem onlyBytesChange_memWrite_win (s : State) {x : List Byte} (hx : x.length = s.params.winB) :
    onlyBytesChange .win 0 s.params.winB s (s.memWrite .win 0 x) := by
  refine ⟨fun b a hout => ?_, rfl, ⟨rfl, rfl⟩, ⟨rfl, rfl⟩, rfl, rfl, rfl, rfl, rfl⟩
  rw [byte_memWrite, dif_neg]
  rintro ⟨hb, hlo, hhi⟩
  exact hout ⟨hb, hlo, by omega⟩

/-- On an empty string or past the last column, WSTR and WCUR enter the fault (R77, R107). -/
theorem windowString_refuses {s : State} (hfit : s.stringFits) {k : Nat}
    (h : s.slen.toNat = 0 ∨ s.params.cellPx * (s.slen.toNat - 1) < k) (w : Word) :
    windowString k w s = .next (s.raise .invalidInput w) := by
  have hcol : s.slen.toNat = 0 ∨ (k : Int) < 0 ∨ (k : Int) > s.params.cellPx * ((s.slen.toNat : Int) - 1) := by
    refine or_iff_not_imp_left.mpr fun hn => .inr ?_
    rw [lastColumn_eq _ (Nat.one_le_iff_ne_zero.mpr hn)]
    exact Int.ofNat_lt.mpr (h.resolve_left hn)
  rw [windowString_fits hfit, forString_refuses s.params (by simpa using hcol)]

/-- At a column of the string, WSTR and WCUR write its window, whatever their word (R77, R79). -/
theorem windowString_legal {s : State} (hfit : s.stringFits) {k : Nat}
    (h : ¬ (s.slen.toNat = 0 ∨ s.params.cellPx * (s.slen.toNat - 1) < k)) :
    ∃ x, forString s.params s.characters k = .ok x ∧ x.length = s.params.winB ∧
      ∀ w, windowString k w s = .next (s.memWrite .win 0 x) := by
  obtain ⟨hn, hk⟩ := not_or.mp h
  obtain ⟨x, hx⟩ := forString_legal s.params (str := s.characters) (k := k) (by simpa using hn) (by simpa using hk)
  exact ⟨x, hx, forString_length hx, fun w => by rw [windowString_fits hfit, hx]⟩

/-- What WSTR and WCUR do on a string that fits the buffer, at column `k` under the word `w` (R77, R79): the fault on the
conditions of R80, otherwise the window and nothing else. -/
theorem windowString_completes {s : State} (hfit : s.stringFits) (k : Nat) (w : Word) :
    ∃ t, windowString k w s = .next t ∧
      if s.slen.toNat = 0 ∨ s.params.cellPx * (s.slen.toNat - 1) < k then faultEntry .invalidInput w s t
      else
        (∃ x, forString s.params s.characters k = .ok x ∧ ∀ i, i < s.params.winB → x[i]? = some (t.byte .win i)) ∧
        t.out = s.out ∧ onlyBytesChange .win 0 s.params.winB s t := by
  split
  · next h => exact ⟨_, windowString_refuses hfit h w, faultEntry_raise s .invalidInput w⟩
  · next h =>
    obtain ⟨x, hx, hlen, hexec⟩ := windowString_legal hfit h
    exact ⟨_, hexec w, ⟨x, hx, fun i hi => getElem?_eq_byte_memWrite s .win (by rwa [hlen])⟩, rfl,
      onlyBytesChange_memWrite_win s hlen⟩

/-- WSTR and WCUR again on the state they left: the string, its length and the parameters are what they were (R82). -/
theorem windowString_idempotent {s t : State} {k : Nat} {w : Word} (h : windowString k w s = .next t) :
    windowString k w t = .next t := by
  obtain ⟨hfit, ⟨hbad, rfl⟩ | ⟨x, hx, rfl⟩⟩ := windowString_next h
  · exact windowString_refuses (s := s.raise .invalidInput w) hfit hbad w
  · have hchars : (s.memWrite .win 0 x).characters = s.characters := rfl
    rw [windowString_fits (s := s.memWrite .win 0 x) hfit, hchars, memWrite_win_params, hx]
    exact congrArg _ (memWrite_memWrite ..)

/-- Settles O37: a window written again is the same window, and a fault entered again the same fault. -/
theorem windowCommandsIdempotent : Obligations.WindowCommandsIdempotent := by
  rintro s t i (⟨c, rfl⟩ | ⟨k, rfl⟩ | rfl) h
  · rw [exec_wchr] at h
    cases h
    rw [exec_wchr, memWrite_win_params, memWrite_memWrite]
  · exact windowString_idempotent h
  · obtain ⟨hticker, -⟩ := (exec_effect h).cursor_eq (by simp) (by simp)
    rw [exec_wcur, hticker]
    exact windowString_idempotent h

/-- Settles O38: the write of `exec_wchr` is a whole window, from every state. -/
theorem wchrCompletes : Obligations.WchrCompletes := by
  refine ⟨fun a imm => ?_, fun s code => ⟨encode_wchr code, _, exec_wchr s code, fun i hi => ?_, rfl, ?_⟩⟩
  · rw [decode, fieldsOf_wordOf, decodeFields_wchr]
  · exact getElem?_eq_byte_memWrite s .win (by rwa [forChar_length])
  · exact onlyBytesChange_memWrite_win s (forChar_length _ _)

/-- Settles O39: `windowString_completes` at the operand's column. -/
theorem wstrCompletes : Obligations.WstrCompletes := by
  refine ⟨fun a imm => ?_, fun s k hfit => ⟨encode_wstr k, windowString_completes hfit k.toNat (encode (.wstr k))⟩⟩
  rw [decode, fieldsOf_wordOf, decodeFields_wstr]

/-- TICK and RTIK on a non-empty string leave the string as it was and the cursor inside it (R94). -/
theorem cursor_inside_of_tick_or_rtik {s t : State} (hfit : s.stringFits) (hne : s.slen.toNat ≠ 0)
    (h : exec .tick s = .next t ∨ exec .rtik s = .next t) :
    t.slen = s.slen ∧ t.params = s.params ∧ t.ticker.toNat ≤ s.params.cellPx * (s.slen.toNat - 1) := by
  obtain h | h := h
  · have hslen : s.slen ≠ 0#16 := fun e => hne (by rw [e]; rfl)
    rw [exec_tick hslen] at h
    cases h
    obtain ⟨h₀, h₁⟩ := tickNext_range s.params s.ticker.toNat s.delta (n := s.slen.toNat) (by omega)
    rw [Int.mul_comm, lastColumn_eq _ (by omega)] at h₁
    have hfits := s.params.column_fits hfit
    have hticker := setTicker_toNat (s := s) h₀ (by omega)
    refine ⟨rfl, rfl, ?_⟩
    rw [setDelta_ticker]
    omega
  · rw [exec_rtik] at h
    cases h
    exact ⟨rfl, rfl, Nat.zero_le _⟩

/-- Settles O40: WCUR is the windower at the cursor, which a TICK or an RTIK leaves at a column of the string. -/
theorem wcurCompletes : Obligations.WcurCompletes := by
  refine ⟨rfl, fun a imm => ?_, fun s hfit => ?_, fun s t hfit hne h => ?_⟩
  · rw [decode, fieldsOf_wordOf, decodeFields_wcur]
  · obtain ⟨t, hexec, heffect⟩ := windowString_completes hfit s.ticker.toNat (encode .wcur)
    refine ⟨t, hexec, ?_⟩
    split
    · next h => rwa [if_pos h] at heffect
    · next h =>
      rw [if_neg h] at heffect
      obtain ⟨hwindow, hout, hframe⟩ := heffect
      obtain ⟨x, -, -, hany⟩ := windowString_legal hfit h
      exact ⟨hwindow, hout, hframe, (hany _).trans ((hany _).symm.trans hexec)⟩
  · obtain ⟨hslen, hparams, hticker⟩ := cursor_inside_of_tick_or_rtik hfit hne h
    have hfit' : t.stringFits := by rwa [State.stringFits, hslen, hparams]
    obtain ⟨x, -, -, hexec⟩ := windowString_legal (s := t) (k := t.ticker.toNat) hfit' (by rw [hslen, hparams]; omega)
    exact ⟨_, hexec _, rfl, rfl⟩

end Sys2Proof.Machine
end

section
/-! The scroll cursor (43_scroll_ticker.md): what TICK and RTIK do to the state, and the course of a run of ticks. -/

namespace Sys2Proof.Machine

/-- A direction is held exactly by its one-bit encoding (R15). -/
theorem delta_setDelta (s : State) {d : Int} (hd : d = 1 ∨ d = -1) : (s.setDelta d).delta = d := by
  obtain rfl | rfl := hd
  · exact delta_setDelta_pos s
  · exact delta_setDelta_neg s

/-- Writing the cursor leaves everything but TICKER and DELTA as it was (R90, R92). -/
theorem onlyRegistersChange_setCursor (s : State) (t d : Int) :
    onlyRegistersChange s ((s.setTicker t).setDelta d) :=
  ⟨fun b i => by rw [byte_setDelta, byte_setTicker], rfl, rfl, rfl, rfl, rfl, rfl⟩

theorem tickNext_fst (p : Params) (t d n : Int) : (tickNext p t d n).1 =
    if t + d ≥ (n - 1) * p.cellPx then (n - 1) * (p.cellPx : Int) else if t + d ≤ 0 then 0 else t + d := by
  rw [tickNext_eq, apply_ite Prod.fst, apply_ite Prod.fst]

theorem tickNext_snd (p : Params) (t d n : Int) : (tickNext p t d n).2 =
    if t + d ≥ (n - 1) * p.cellPx then -1 else if t + d ≤ 0 then 1 else d := by
  rw [tickNext_eq, apply_ite Prod.snd, apply_ite Prod.snd]

/-- A tick gives a direction again (R91). -/
theorem tickNext_dir (p : Params) (t n : Int) {d : Int} (hd : d = 1 ∨ d = -1) :
    (tickNext p t d n).2 = 1 ∨ (tickNext p t d n).2 = -1 := by
  rw [tickNext_snd]
  split
  · exact .inr rfl
  · split
    · exact .inl rfl
    · exact hd

/-- TICK on a non-empty string that fits the buffer holds the result of `tick_next` exactly, and writes nothing else
(R58, R90). -/
theorem exec_tick_completes {s : State} (hfit : s.stringFits) (hne : s.slen.toNat ≠ 0) :
    ∃ t, exec .tick s = .next t ∧
      (t.ticker.toNat : Int) = (tickNext s.params s.ticker.toNat s.delta s.slen.toNat).1 ∧
      t.delta = (tickNext s.params s.ticker.toNat s.delta s.slen.toNat).2 ∧
      t.slen = s.slen ∧ sameFault s t ∧ onlyRegistersChange s t := by
  have hslen : s.slen ≠ 0#16 := fun e => hne (toNat_eq_zero_iff.mpr e)
  obtain ⟨h₀, h₁⟩ := tickNext_range s.params s.ticker.toNat s.delta (n := s.slen.toNat) (by omega)
  rw [Int.mul_comm, lastColumn_eq _ (by omega)] at h₁
  have hfits := s.params.column_fits hfit
  exact ⟨_, exec_tick hslen, setTicker_toNat (s := s) h₀ (by omega),
    delta_setDelta _ (tickNext_dir _ _ _ (delta_cases s)), rfl, ⟨rfl, rfl⟩, onlyRegistersChange_setCursor s _ _⟩

/-- Settles O42: `exec_tick_completes` with the transition written out, and fault entry on an empty string. -/
theorem tickCompletes : Obligations.TickCompletes := by
  refine ⟨rfl, fun a imm => ?_, fun s hfit => ?_⟩
  · rw [decode_wordOf, decodeFields_tick]
  · by_cases hn : s.slen.toNat = 0
    · refine ⟨_, exec_tick_empty (toNat_eq_zero_iff.mp hn), ?_⟩
      rw [if_pos hn]
      exact faultEntry_raise s .invalidInput _
    · obtain ⟨t, hexec, hticker, hdelta, hrest⟩ := exec_tick_completes hfit hn
      refine ⟨t, hexec, ?_⟩
      rw [if_neg hn]
      exact ⟨⟨hticker.trans (tickNext_fst ..), hdelta.trans (tickNext_snd ..)⟩, hrest⟩

/-- Settles O43: RTIK writes (0, +1) into the cursor, without a test. -/
theorem rtikCompletes : Obligations.RtikCompletes := by
  refine ⟨rfl, fun a imm => ?_, fun s => ?_⟩
  · rw [decode_wordOf, decodeFields_rtik]
  · exact ⟨_, exec_rtik s, rfl, delta_setDelta_pos _, rfl, rfl, ⟨rfl, rfl⟩, onlyRegistersChange_setCursor s 0 1⟩

/-- From a position above the bound even a step down does not come below it, so a tick clamps (R97). -/
theorem tickNext_above (p : Params) {t d n : Int} (hd : d = 1 ∨ d = -1) (h : (n - 1) * p.cellPx < t) :
    tickNext p t d n = ((n - 1) * p.cellPx, -1) := by
  rw [tickNext_eq, if_pos (by omega)]

/-- Settles O46: TICK clamps by `tickNext_above`, and the column is past the last one of the windower. -/
theorem cursorAboveBound : Obligations.CursorAboveBound := by
  intro s hfit hne habove
  refine ⟨?_, _, windowString_refuses hfit (.inr habove) _, faultEntry_raise s .invalidInput _⟩
  have hbound := lastColumn_eq s.params.toSizes (Nat.one_le_iff_ne_zero.mpr hne)
  rw [Int.mul_comm] at hbound
  obtain ⟨t, hexec, hticker, hdelta, -, hfault, -⟩ := exec_tick_completes hfit hne
  rw [tickNext_above _ (delta_cases s) (by omega)] at hticker hdelta
  exact ⟨t, hexec, by omega, hdelta, hfault⟩

/-- A tick turns the direction only at the upper bound coming up, or at 0 coming down (R94). -/
theorem tickNext_turns (p : Params) (t n : Int) {d : Int} (hd : d = 1 ∨ d = -1) (hturn : (tickNext p t d n).2 ≠ d) :
    d = 1 ∧ (tickNext p t d n).1 = (n - 1) * p.cellPx ∨ d = -1 ∧ (tickNext p t d n).1 = 0 := by
  rw [tickNext_eq] at hturn ⊢
  split_ifs at hturn ⊢
  · exact .inl ⟨hd.resolve_right (Ne.symm hturn), rfl⟩
  · exact .inr ⟨hd.resolve_left (Ne.symm hturn), rfl⟩
  · exact absurd rfl hturn

/-- The last of `m + 1` ticks comes after the first `m`. -/
theorem ticks_succ (p : Params) (n : Int) (m : Nat) (c : Int × Int) :
    ticks p n (m + 1) c = tickNext p (ticks p n m c).1 (ticks p n m c).2 n := by
  induction m generalizing c with
  | zero => rfl
  | succ m ih => rw [ticks, ih, ticks]

/-- The cursor at tick `q` of one period of the bounce: up from 0, then down from `bound` (R94). -/
def bounceAt (bound q : Nat) : Int × Int :=
  if q < bound then (q, 1) else ((2 * bound - q : Nat), -1)

theorem bounceAt_up {bound q : Nat} (h : q < bound) : bounceAt bound q = ((q : Int), 1) := if_pos h

theorem bounceAt_down {bound q : Nat} (h : bound ≤ q) : bounceAt bound q = (((2 * bound - q : Nat) : Int), -1) :=
  if_neg (Nat.not_lt.mpr h)

/-- One tick goes on to the next cursor of the period, and from its last one back to its first (R91, R94). -/
theorem tickNext_bounceAt (p : Params) {n : Int} {bound q : Nat} (hbound : (n - 1) * p.cellPx = bound)
    (hpos : 0 < bound) (hq : q < 2 * bound) :
    tickNext p (bounceAt bound q).1 (bounceAt bound q).2 n = bounceAt bound ((q + 1) % (2 * bound)) := by
  rw [tickNext_eq, hbound]
  obtain hup | hdown := Nat.lt_or_ge q bound
  · rw [bounceAt_up hup, Nat.mod_eq_of_lt (by omega)]
    dsimp only
    obtain hbelow | htop := Nat.lt_or_ge (q + 1) bound
    · rw [if_neg (by omega), if_neg (by omega), bounceAt_up hbelow, Nat.cast_succ]
    · rw [if_pos (by omega), bounceAt_down htop, show 2 * bound - (q + 1) = bound by omega]
  · rw [bounceAt_down hdown]
    dsimp only
    rw [if_neg (by omega)]
    obtain habove | hzero := Nat.lt_or_ge (q + 1) (2 * bound)
    · rw [if_neg (by omega), Nat.mod_eq_of_lt habove, bounceAt_down (by omega),
        show ((2 * bound - q : Nat) : Int) + -1 = (2 * bound - (q + 1) : Nat) by omega]
    · rw [if_pos (by omega), show q + 1 = 2 * bound by omega, Nat.mod_self, bounceAt_up hpos, Nat.cast_zero]

/-- The run of ticks from (0, +1) goes through the period again and again (R94). -/
theorem ticks_eq_bounceAt (p : Params) {n : Int} {bound : Nat} (hbound : (n - 1) * p.cellPx = bound)
    (hpos : 0 < bound) (m : Nat) : ticks p n m (0, 1) = bounceAt bound (m % (2 * bound)) := by
  induction m with
  | zero => rw [ticks, Nat.zero_mod, bounceAt_up hpos, Nat.cast_zero]
  | succ m ih =>
    rw [ticks_succ, ih, tickNext_bounceAt p hbound hpos (Nat.mod_lt _ (by omega)), Nat.mod_add_mod]

/-- Settles O44: one tick stays in range and turns at a boundary only (`tickNext_range`, `tickNext_turns`), a run is
periodic (`ticks_eq_bounceAt`), and the machine's TICK and RTIK keep to it (`cursor_inside_of_tick_or_rtik`). -/
theorem bounceProperty : Obligations.BounceProperty := by
  refine ⟨fun p t d n _ hd hn => ?_, fun p n m hn => ?_, fun s t hfit hne h => ?_⟩
  · obtain ⟨h₀, h₁⟩ := tickNext_range p t d hn
    exact ⟨h₀, h₁, tickNext_turns p t n hd⟩
  · have hbound := lastColumn_eq p.toSizes (n := n) (by omega)
    rw [Int.mul_comm] at hbound
    exact ticks_eq_bounceAt p hbound (Nat.mul_pos p.cell_pos (by omega)) m
  · obtain ⟨hslen, hparams, hticker⟩ := cursor_inside_of_tick_or_rtik hfit hne h
    rwa [hslen, hparams]

/-- Settles O45: with the bound at 0, a tick from (0, +1) meets the upper bound and one from (0, -1) goes below 0. -/
theorem oneCharacterTicks : Obligations.OneCharacterTicks := by
  intro p m
  have hup : tickNext p 0 1 1 = (0, -1) := by simp [tickNext_eq]
  have hdown : tickNext p 0 (-1) 1 = (0, 1) := by simp [tickNext_eq]
  induction m with
  | zero => rfl
  | succ m ih =>
    rw [ticks_succ, ih]
    obtain heven | hodd := Nat.mod_two_eq_zero_or_one m
    · rw [if_pos heven, hup, if_neg (by omega)]
    · rw [if_neg (by omega), hdown, if_pos (by omega)]

end Sys2Proof.Machine
end

section
/-! The two words of the string loader (30_encoding.md R46, R48). -/

namespace Sys2Proof

theorem encode_slen (n : Half) : encode (.slen n) = 0x07000000#32 ||| n.setWidth 32 := by
  rw [encode, encodeFields, wordOf_eq_or]
  simp

theorem encode_schr (idx : Half) (code : Byte) :
    encode (.schr idx code) = 0x08000000#32 ||| (code.setWidth 32 <<< 16) ||| idx.setWidth 32 := by
  rw [encode, encodeFields, wordOf_eq_or]
  simp

end Sys2Proof
end

section
/-! Loading the string (44_string_load.md): SLEN writes the length, SCHR one byte of STR, neither has to do with the
cursor, and the windower sees STR below SLEN only. -/

namespace Sys2Proof.Machine

/-- Writing the length leaves everything but SLEN as it was (R100). -/
theorem onlyRegistersChange_setSlen (s : State) (n : Half) : onlyRegistersChange s (s.setSlen n) :=
  ⟨fun b i => by rw [byte_setSlen], rfl, rfl, rfl, rfl, rfl, rfl⟩

/-- A write of STR leaves everything but the written bytes as it was (R34). -/
theorem onlyBytesChange_memWrite_str (s : State) (i : Nat) (v : List Byte) :
    onlyBytesChange .str i v.length s (s.memWrite .str i v) := by
  refine ⟨fun b a hout => ?_, rfl, ⟨rfl, rfl⟩, ⟨rfl, rfl⟩, rfl, rfl, rfl, rfl, rfl⟩
  rw [byte_memWrite, dif_neg]
  rintro ⟨hb, hlo, hhi⟩
  exact hout ⟨hb, hlo, by omega⟩

/-- The byte a one-byte write leaves at its index (R34). -/
theorem byte_memWrite_singleton (s : State) (b : Buf) (i : Nat) (x : Byte) : (s.memWrite b i [x]).byte b i = x := by
  have hin : i - i < [x].length := by simp
  rw [byte_memWrite, dif_pos ⟨rfl, le_rfl, hin⟩]
  simp

/-- Settles O49: above STR_MAX the fault, otherwise the write of one register. -/
theorem slenCompletes : Obligations.SlenCompletes := by
  refine ⟨fun a imm => ?_, fun s n => ⟨encode_slen n, ?_⟩⟩
  · rw [decode_wordOf, decodeFields_slen]
  · split
    · next hlong => exact ⟨_, exec_slen_long hlong, faultEntry_raise s .invalidInput _⟩
    · next hfits =>
      exact ⟨_, exec_slen (Nat.le_of_not_lt hfits), rfl, ⟨rfl, rfl⟩, ⟨rfl, rfl⟩, onlyRegistersChange_setSlen s n⟩

/-- Settles O50: from STR_MAX on the fault, otherwise a write of one byte. -/
theorem schrCompletes : Obligations.SchrCompletes := by
  refine ⟨fun a imm => ?_, fun s idx code => ⟨encode_schr idx code, ?_⟩⟩
  · rw [decode_wordOf, decodeFields_schr]
  · split
    · next houtside => exact ⟨_, exec_schr_outside houtside, faultEntry_raise s .invalidInput _⟩
    · next hinside =>
      exact ⟨_, exec_schr (Nat.lt_of_not_le hinside), byte_memWrite_singleton s .str idx.toNat code, rfl,
        onlyBytesChange_memWrite_str s idx.toNat [code]⟩

/-- Settles O51: each test is on the operand and STR_MAX, so it falls out the same under any cursor, and the writes of
its two outcomes leave TICKER and DELTA alone. -/
theorem loadingKeepsCursor : Obligations.LoadingKeepsCursor := by
  rintro s i p d (⟨n, rfl⟩ | ⟨idx, code, rfl⟩)
  · obtain hlong | hfits := Nat.lt_or_ge s.params.strMax n.toNat
    · exact ⟨_, exec_slen_long hlong, ⟨rfl, rfl⟩, exec_slen_long hlong⟩
    · exact ⟨_, exec_slen hfits, ⟨rfl, rfl⟩, exec_slen hfits⟩
  · obtain hinside | houtside := Nat.lt_or_ge idx.toNat s.params.strMax
    · exact ⟨_, exec_schr hinside, ⟨rfl, rfl⟩, exec_schr hinside⟩
    · exact ⟨_, exec_schr_outside houtside, ⟨rfl, rfl⟩, exec_schr_outside houtside⟩

section OtherContents

variable {s : State} {m : Memory}
  (hsame : ∀ a, a < s.slen.toNat → ({ s with str := m } : State).byte .str a = s.byte .str a)
include hsame

/-- Contents of STR that agree below SLEN hold the same current string (R102). -/
theorem characters_congr_str : ({ s with str := m } : State).characters = s.characters :=
  List.map_congr_left fun a ha => hsame a (List.mem_range.mp ha)

/-- WSTR and WCUR on other contents of STR with the same current string: the same fault, or the same window. -/
theorem windowString_congr_str {t : State} {k : Nat} {w : Word} (h : windowString k w s = .next t) :
    windowString k w { s with str := m } = .next { t with str := m } := by
  obtain ⟨hfit, ⟨hbad, rfl⟩ | ⟨x, hx, rfl⟩⟩ := windowString_next h
  · exact windowString_refuses (s := { s with str := m }) hfit hbad w
  · rw [windowString_fits (s := { s with str := m }) hfit, characters_congr_str hsame, hx]
    rfl

end OtherContents

/-- Settles O41: both commands are the windower, at a column that STR has no part in. -/
theorem entriesBeyondLengthNotRead : Obligations.EntriesBeyondLengthNotRead := by
  rintro s t m i (⟨k, rfl⟩ | rfl) hsame h
  · exact windowString_congr_str hsame h
  · exact windowString_congr_str hsame h

end Sys2Proof.Machine
end

section
/-! Faults (60_exceptions.md R107 to R111, R117): a command enters the fault exactly on its own conditions and then does
nothing else, and a halted block ignores commands until it is reset. -/

namespace Sys2Proof.Machine

/-- A command leaves STATUS and FCMD alone, or one of its tests fails and it does nothing but fault entry (R107, R109). -/
theorem ExecEffect.sameFault_or_raise {s t : State} {i : Instr} (h : ExecEffect s i t) :
    sameFault s t ∨ s.accepts i = false ∧ t = s.raise .invalidInput (encode i) := by
  cases h with
  | fault i hi => exact .inr ⟨hi, rfl⟩
  | _ => exact .inl ⟨rfl, rfl⟩

/-- A command whose tests pass completes and records no fault (R107). -/
theorem exec_accepted {s : State} (hfit : s.stringFits) {i : Instr} (hi : s.accepts i = true) :
    ∃ t, exec i s = .next t ∧ sameFault s t := by
  obtain ⟨t, ht⟩ := exec_answers hfit i
  refine ⟨t, ht, (exec_effect ht).sameFault_or_raise.resolve_right ?_⟩
  rintro ⟨hbad, -⟩
  rw [hi] at hbad
  cases hbad

/-- Settles O20: each condition meets its command's fault, `exec_accepted` is the complement, and `pack_refuses` the error
of the pure function. -/
theorem invalidInputCauses : Obligations.InvalidInputCauses := by
  refine ⟨fun s hfit => ⟨fun k hk => ?_, fun hcursor => ?_, fun hn => ?_, fun n hn => ?_, fun idx code hidx => ?_,
    fun i => exec_accepted hfit, rfl, fun _ => rfl, rfl⟩, fun order x => pack_refuses order⟩
  · exact ⟨_, windowString_refuses hfit hk _, faultEntry_raise ..⟩
  · exact ⟨_, windowString_refuses hfit hcursor _, faultEntry_raise ..⟩
  · exact ⟨_, exec_tick_empty (toNat_eq_zero_iff.mp hn), faultEntry_raise ..⟩
  · exact ⟨_, exec_slen_long hn, faultEntry_raise ..⟩
  · exact ⟨_, exec_schr_outside hidx, faultEntry_raise ..⟩

/-- Settles O19: of the effects of a command word, only the illegal word and the refused command write STATUS or FCMD, and
the encoding of the refused command is the word given (`encode_of_decode`). -/
theorem faultsArePrecise : Obligations.FaultsArePrecise := by
  intro s t w rest hp hstep
  cases step_effect hstep with
  | illegal w' rest' why hp' hh hd =>
    cases hp.symm.trans hp'
    exact .inr (.inr (faultEntry_raise ..))
  | command w' rest' i t hp' hh hd he =>
    cases hp.symm.trans hp'
    obtain hsame | ⟨-, rfl⟩ := he.sameFault_or_raise
    · exact .inl hsame
    · rw [encode_of_decode hd]
      exact .inr (.inl (faultEntry_raise ..))
  | reset rest' hp' => cases hp.symm.trans hp'
  | _ => exact .inl ⟨rfl, rfl⟩

/-- The five register numbers of R22 are assigned. -/
theorem registerValue_assigned (s : State) {n : Nat} (hn : n < 5) : ∃ v, registerValue s n = some v := by
  interval_cases n <;> exact ⟨_, rfl⟩

/-- On a halted block every transaction but the reset event leaves STATUS and FCMD alone (R110). -/
theorem StepEffect.sameFault_or_reset {s t : State} (h : StepEffect s t) (hh : s.halted = true) :
    sameFault s t ∨ ∃ rest, s.pending = .reset :: rest := by
  cases h with
  | illegal w rest why hp hrun hd => simp [hh] at hrun
  | command w rest i t hp hrun hd he => simp [hh] at hrun
  | reset rest hp => exact .inr ⟨rest, hp⟩
  | _ => exact .inl ⟨rfl, rfl⟩

/-- Settles O15: a command word is only counted, the reads are those of a block that runs, and `sameFault_or_reset` says
what leaves the halt. -/
theorem haltedBlockIgnoresCommands : Obligations.HaltedBlockIgnoresCommands := by
  refine fun s hh => ⟨fun w rest hp => ?_, fun n rest hp hn => ?_, fun b i rest hp hi => step_bufRead hp hi,
    fun r b rest v hp hv => step_atlasRead hp hv, fun t hstep => ?_, fun rest hp => ?_⟩
  · exact (step_pending hp).trans (serveCommand_halted (by simpa using hh))
  · obtain ⟨v, hv⟩ := registerValue_assigned s hn
    exact ⟨v, hv, step_regRead hp hv⟩
  · refine ((step_effect hstep).sameFault_or_reset hh).imp_left fun hsame => ⟨?_, hsame⟩
    obtain ⟨hstatus, -⟩ := hsame
    rwa [halted_congr hstatus]
  · exact ⟨_, step_pending hp, halted_blockReset _⟩

/-- Settles O14: with an empty list of transactions the step is `step_idle`. -/
theorem idleStepChangesNothing : Obligations.IdleStepChangesNothing := fun _ => step_idle

end Sys2Proof.Machine
end

section
/-! The hazards (70_reset_and_hazards.md R125, R129): FRAME follows the last frame emitted, and a SLEN that lowers
the bound beneath the cursor makes WCUR fault until a TICK or an RTIK moves the cursor. -/

namespace Sys2Proof.Machine

/-- PACK replaces the whole of FRAME by the frame it emits, so nothing of an earlier frame is left; no other command
writes FRAME or OUT (R21, R22). -/
theorem ExecEffect.frameIsLastOut {s t : State} {i : Instr} (he : ExecEffect s i t) (hinv : s.Inv)
    (h : s.FrameIsLastOut) : t.FrameIsLastOut := by
  cases he with
  | pack f hf =>
    obtain ⟨-, -, -, -, -, -, hframe, -⟩ := hinv
    have hlen : f.length = s.params.frameB := pack_window_length _ (by simp) hf
    have hwhole : Memory.splice 0 f s.frame = Memory.cells 0 f := splice_whole hframe hlen
    simpa [State.FrameIsLastOut] using hwhole
  | _ => exact h

theorem StepEffect.frameIsLastOut {s t : State} (hstep : StepEffect s t) (hinv : s.Inv) (h : s.FrameIsLastOut) :
    t.FrameIsLastOut := by
  cases hstep with
  | command w rest i t hp hh hd he => exact he.frameIsLastOut (hinv.setPending rest).advance h
  | reset rest hp => rfl
  | _ => exact h

/-- Settles O9: of the effects of a step, PACK rewrites FRAME with the frame it emits and reset empties both. -/
theorem stepKeepsFrameLastOut : Obligations.StepKeepsFrameLastOut :=
  fun _ _ hinv h hstep => (step_effect hstep).frameIsLastOut hinv h

/-- On a non-empty string, WCUR right after a TICK or an RTIK that recorded no fault records none either (R79). -/
theorem wcur_after_tick_or_rtik_sameFault {s u : State} {i : Instr} (hfit : s.stringFits) (hne : s.slen.toNat ≠ 0)
    (hi : i = .tick ∨ i = .rtik) (hexec : exec i s = .next u) (hsame : sameFault s u) :
    ∃ u' v, exec i s = .next u' ∧ exec .wcur u' = .next v ∧ sameFault s v := by
  obtain ⟨-, -, -, hafter⟩ := wcurCompletes
  obtain ⟨v, hwcur, hsame'⟩ := hafter s u hfit hne <| hi.imp (fun h => by rwa [← h]) (fun h => by rwa [← h])
  obtain ⟨hstatus, hfcmd⟩ := hsame
  obtain ⟨hstatus', hfcmd'⟩ := hsame'
  exact ⟨u, v, hexec, hwcur, hstatus'.trans hstatus, hfcmd'.trans hfcmd⟩

/-- Settles O47: the state SLEN leaves has its cursor above the bound, so O46 gives the fault of WCUR and the tick that
clamps without one. -/
theorem shortenedStringHazard : Obligations.ShortenedStringHazard := by
  intro s t n hpos hmax habove hexec
  rw [exec_slen hmax] at hexec
  cases hexec
  have hfit : (s.setSlen n).stringFits := hmax
  have hne : (s.setSlen n).slen.toNat ≠ 0 := Nat.one_le_iff_ne_zero.mp hpos
  obtain ⟨⟨u, htick, -, -, hsame⟩, hwcur⟩ := cursorAboveBound (s.setSlen n) hfit hne habove
  exact ⟨hwcur, wcur_after_tick_or_rtik_sameFault hfit hne (.inl rfl) htick hsame,
    wcur_after_tick_or_rtik_sameFault hfit hne (.inr rfl) (exec_rtik _) ⟨rfl, rfl⟩⟩

end Sys2Proof.Machine
end

section
/-! Reads of the host's port that the spec reserves (93_implementation_defined.md U5, U6), and the words of the spec's
test vectors (95_test_vectors.md, sections 6 and 7). -/

namespace Sys2Proof.Machine

theorem registerValue_reserved (s : State) {n : Nat} (hn : 5 ≤ n) : registerValue s n = none := by
  obtain ⟨k, rfl⟩ := Nat.exists_eq_add_of_le' hn
  rfl

/-- Outside the atlas there is no byte to read: a row past the last is empty, and the others end at ATLAS_W (R12). -/
theorem atlasRead_outside (p : Params) {r b : Nat} (n : Nat) (h : p.cellPx ≤ r ∨ p.width ≤ b) :
    atlasRead p r b n = [] := by
  have hend : (p.rows.getD r []).length ≤ b := by
    obtain hr | hr := Nat.lt_or_ge r p.cellPx
    · rw [row_width p hr]
      exact h.resolve_left (Nat.not_le.mpr hr)
    · rw [List.getD_eq_default _ _ (p.rows_count.trans_le hr)]
      exact Nat.zero_le b
  rw [atlasRead, List.drop_eq_nil_of_le hend, List.take_nil]

/-- Settles O18: a reserved number has no value, and outside a buffer or the atlas the read of one byte finds none. -/
theorem reservedReadsAreRefused : Obligations.ReservedReadsAreRefused := by
  refine fun s rest => ⟨fun n hp hn => ?_, fun b i hp hi => ?_, fun r b hp hout => ?_⟩
  · rw [step_pending hp, serve, serveRegRead, registerValue_reserved _ hn]
  · have hnone : (s.setPending rest).memRead b i 1 = none := memRead_outside (Nat.not_le.mpr (Nat.lt_succ_of_le hi))
    rw [step_pending hp, serve, serveBufRead, hnone]
  · rw [step_pending hp, serve, serveAtlasRead, setPending_params, atlasRead_outside _ _ hout]

/-- Settles O1: each legal word is its command's encoding, which `decode_encode` reads back; the illegal words fail by
their opcode, or by the test of the fields that the row of their opcode does not use. -/
theorem tableWordsDecode : Obligations.TableWordsDecode :=
  ⟨decode_encode .pack, decode_encode (.wchr 48#8), decode_encode (.wchr 57#8), decode_encode (.wchr 255#8),
    decode_encode (.wstr 0#16), decode_encode (.wstr 2040#16), decode_encode (.wstr 65535#16), decode_encode .wcur,
    decode_encode .tick, decode_encode .rtik, decode_encode (.slen 3#16), decode_encode (.schr 2#16 48#8),
    decodeFields_unassigned 0#8 0#16 (op := 0#8) (by decide),
    decodeFields_unassigned 0xFF#8 0xFFFF#16 (op := 0xFF#8) (by decide),
    decodeFields_unassigned 0#8 0#16 (op := 9#8) (by decide),
    decodeFields_pack 0#8 1#16, decodeFields_wchr 0x31#8 1#16, decodeFields_wstr 1#8 0#16, decodeFields_tick 1#8 0#16⟩

end Sys2Proof.Machine
end
